-- ==== Sys2Proof/Word.lean ====
section
/-! DEFINITION. The widths of the block, as names for bit vectors (`00_scope.md` rules R7, R8). Every
value of the block is an unsigned integer of a stated width; nothing is signed. -/

namespace Sys2Proof

/-- `STATE_W`: the width of `STATE`, of a seed and of a response's data. -/
abbrev U128 := BitVec 128

/-- `OUT_W`: the width of a draw. -/
abbrev U64 := BitVec 64

/-- `ROT_W`: the width of the rotate amount. -/
abbrev U6 := BitVec 6

/-- `CMD_W`: the command word, format CMD130 (`30_encoding.md` rule R41). -/
abbrev CmdWord := BitVec 130

/-- `RSP_W`: the response word, format RSP129 (`30_encoding.md` rule R42). -/
abbrev RspWord := BitVec 129

end Sys2Proof
end

