-- ==== Sys2Proof/Syntax.lean ====
section
/-! DEFINITION. The command set: one constructor per row of spec/opcode_table.json
(`30_encoding.md` rule R43). The ignored operand of `NEXT` and `GETSTATE` is no part of the command
(rule R46). -/

namespace Sys2Proof

/-- A command (`30_encoding.md` rules R43, R46). -/
inductive Instr where
  /-- `NEXT`, op 00: draw one 64-bit value (`42_draw_permute.md` rule R71). -/
  | next
  /-- `SEED s`, op 01: the source's `new` and `reseed` (`41_seed.md` rule R63). -/
  | seed (s : U128)
  /-- `GETSTATE`, op 10: return the state (`43_state_access.md` rule R76). -/
  | getstate
  /-- `SETSTATE v`, op 11: replace the state (`43_state_access.md` rule R77). -/
  | setstate (v : U128)
deriving DecidableEq, Repr

end Sys2Proof
end

