-- ==== Sys2Proof/Decode.lean ====
section
/-! DEFINITION. The command decoder and encoder (`30_encoding.md` rules R41, R43 to R46). Decoding is
total: all four values of `op` are assigned, so every one of the `2^130` command words is a command.
A number that does not fit 130 bits is no command word and is refused (log entry 7). -/

namespace Sys2Proof

/-- `cmd_word[129:128]` (rule R41). -/
def opField (w : CmdWord) : BitVec 2 := w.extractLsb' 128 2

/-- `cmd_word[127:0]` (rule R41), used as it stands (rule R44). -/
def operandField (w : CmdWord) : U128 := w.extractLsb' 0 128

/-- The decode function of rule R46. The operand of `NEXT` and `GETSTATE` is not looked at (R45). -/
def decode (w : CmdWord) : Instr :=
  match opField w with
  | 0b00#2 => .next
  | 0b01#2 => .seed (operandField w)
  | 0b10#2 => .getstate
  | 0b11#2 => .setstate (operandField w)

/-- The command word as an integer: `op * 2^128 + operand` (rules R41, R46). -/
def encodeNat : Instr → Nat
  | .next => 0 * 2 ^ 128
  | .seed s => 1 * 2 ^ 128 + s.toNat
  | .getstate => 2 * 2 ^ 128
  | .setstate v => 3 * 2 ^ 128 + v.toNat

/-- The encode function of rule R46. -/
def encode (i : Instr) : CmdWord := BitVec.ofNat 130 (encodeNat i)

/-- The mask of all four rows of the opcode map, bits 129 and 128 (rule R43). -/
def opcodeMask : CmdWord := 0x300000000000000000000000000000000#130

/-- The match word of a command's row of the opcode map (rule R43). -/
def opcodeMatch : Instr → CmdWord
  | .next => 0x000000000000000000000000000000000#130
  | .seed _ => 0x100000000000000000000000000000000#130
  | .getstate => 0x200000000000000000000000000000000#130
  | .setstate _ => 0x300000000000000000000000000000000#130

/-- The command word that a number of `nbits` bits stands for: bits above `nbits` are 0; a number that
does not fit the 130 wires of the command port stands for none (log entry 7). -/
def tableWord (nbits w : Nat) : Option CmdWord :=
  if w % 2 ^ nbits < 2 ^ 130 then some (BitVec.ofNat 130 (w % 2 ^ nbits)) else none

/-- The command the decoder reads from an opcode-table word: bit 0 of the number is bit 0 of
`cmd_word` (rule R28; log entry 7). -/
def decodeTableWord (nbits w : Nat) : Option Instr := (tableWord nbits w).map decode

end Sys2Proof
end

