-- ==== Sys2Proof/Config.lean ====
section
/-! DEFINITION. The constants of the block (`10_state.md` rule R17), "process-wide, immutable, fixed by
the algorithm specification, not configurable", and the one free value of the model. -/

namespace Sys2Proof.Config

/-- `MULTIPLIER` (`10_state.md` rule R17). -/
def multiplier : U128 := 0x2360ED051FC65DA44385DF649FCCF645#128

/-- `INCREMENT` (`10_state.md` rule R17). -/
def increment : U128 := 0x5851F42D4C957F2D14057B7EF767814F#128

/-- `MULTIPLIER_INV`, the inverse of `MULTIPLIER` modulo `2^128` (`40_step_mad.md` rule R59 (g)). No
command uses it; it is here for the statement that the step is a bijection. -/
def multiplierInv : U128 := 0x07DDA22B9397986098ABC8B0716EAC8D#128

/-- FREE VALUE: what `STATE` holds after the `n`-th free value is taken, that is after a host action
`Reset` (`10_state.md` rule R25: "unspecified"; `93_implementation_defined.md` V1). It has no body, so
nothing can be proved of it. Log entry 2 (safe). -/
opaque resetState : Nat → U128

end Sys2Proof.Config
end

