-- ==== Sys2Proof/Machine/State.lean ====
section
/-! DEFINITION. The state of one instance of the block together with the host's side of a run
(`10_state.md`; `70_reset_and_hazards.md` rule R104). The block has no memory, no program counter and
no control register (`10_state.md` rules R20 to R23, `20_memory.md` rule R27), so none stands here. -/

namespace Sys2Proof.Machine

/-- What the host can do to an instance (`70_reset_and_hazards.md` rule R104). -/
inductive HostAction where
  /-- An assertion of `rst` (rule R95). -/
  | reset
  /-- One acceptance of a command word together with the transfer of its response
  (`30_encoding.md` rule R40). -/
  | cmd (w : CmdWord)
deriving DecidableEq, Repr

/-- The causes of an exception: there is one (`60_exceptions.md` rule R81). -/
inductive Cause where
  /-- `NEXT` or `GETSTATE` while `SEEDED = 0`. -/
  | unseeded
deriving DecidableEq, Repr

/-- A response, as its two fields (`30_encoding.md` rule R42). -/
structure Response where
  /-- `rsp_word[128]`: 0 completed; otherwise the cause code. -/
  err : BitVec 1
  /-- `rsp_word[127:0]`. -/
  data : U128
deriving DecidableEq, Repr

/-- Why the machine stops with a fault. No command raises one: the block's one exception is answered,
not stopped on (`60_exceptions.md` rule R83). -/
inductive Fault where
  /-- Raised by the port machine (Machine/Port.lean) when the host changes or withdraws a command word
  it has offered (`70_reset_and_hazards.md` rule R99: "which word is executed is not defined by this
  spec"). Safe: the model stops where the hardware goes on. -/
  | handshakeViolated
deriving DecidableEq, Repr

/-- Why the model gives no meaning. -/
inductive Refusal where
  /-- Raised by `exec`'s arm of a command without a meaning: there is none such. Safe. -/
  | notModelled (mnemonic : String)
  /-- Raised by `step` and by the port machine for a command before the first `Reset` after power-up
  (`70_reset_and_hazards.md` rule R98: the model "refuses the run"). Safe. -/
  | beforeFirstReset
  /-- Raised by the port machine for an acceptance or a transfer at a moment at which the two signals
  are not both asserted (`30_encoding.md` rule R40). Safe: no such moment exists. -/
  | noSuchMoment
  /-- Raised by the system of instances for an action that names no instance
  (`70_reset_and_hazards.md` rule R104). Safe. -/
  | noSuchInstance
deriving DecidableEq, Repr

/-- One instance and the host's side of its run. -/
structure State where
  /-- `STATE` (`10_state.md` rule R13). -/
  state : U128
  /-- `SEEDED` (`10_state.md` rule R18). -/
  seeded : Bool
  /-- A `Reset` has been applied since power-up (`70_reset_and_hazards.md` rule R98; log entry 5). -/
  resetSeen : Bool
  /-- The host's program: a finite list of host actions (rule R104; log entry 3). -/
  program : List HostAction
  /-- The index of the next action in `program`, the host's counter (`10_state.md` rule R22). -/
  index : Nat
  /-- The responses given so far, oldest first (rule R104); the host's record, read by no command. -/
  responses : List Response
  /-- THE MODEL'S OWN: how many free values `Reset` has taken (log entry 2). -/
  freeCount : Nat
deriving DecidableEq, Repr

/-- The machine right after reset (`10_state.md` rule R25). The spec gives `STATE` no value; 0 is the
model's (DESIGN CHOICE, log entry 1), and no rule reads it while `SEEDED = 0` (rule R19). -/
def State.reset : State where
  state := 0
  seeded := false
  resetSeen := true
  program := []
  index := 0
  responses := []
  freeCount := 0

end Sys2Proof.Machine
end

