-- ==== Sys2Proof/Machine/Ops.lean ====
section
/-! DEFINITION. The named operations on the state: the register, the response, taking the one
exception, reset, power-up, and the host's program. -/

namespace Sys2Proof.Machine

/-- What a step answers. -/
abbrev Result := Host.Outcome State Fault Refusal

/-- `STATE` (read) (`00_scope.md` rule R10). -/
def readState (s : State) : U128 := s.state

/-- `STATE <- v` (`00_scope.md` rule R10). -/
def writeState (v : U128) (s : State) : State := { s with state := v }

/-- A response joins the responses given, in the order of the commands (`20_memory.md` rule R30). -/
def giveResponse (r : Response) (s : State) : State := { s with responses := s.responses ++ [r] }

/-- The response of a command that completed (`30_encoding.md` rule R42). -/
def okResponse (data : U128) : Response := { err := 0, data := data }

/-- `respond(data)`: end the command with `err = 0` (`00_scope.md` rule R10). -/
def respond (data : U128) (s : State) : Result := .next (giveResponse (okResponse data) s)

/-- The cause code carried by `err` (`60_exceptions.md` rule R81). -/
def causeCode : Cause → BitVec 1
  | .unseeded => 1

/-- The response of a command that raised an exception: `data = 0` (`30_encoding.md` rule R42). -/
def errResponse (c : Cause) : Response := { err := causeCode c, data := 0 }

/-- TAKING AN EXCEPTION (`60_exceptions.md` rule R83): nothing of the block is written, the command is
answered in its own place, and the block goes on. No vector, saved register or mode exists, and there
is nothing to return from (rule R84), so no return stands beside it. -/
def raise (c : Cause) (s : State) : Result := .next (giveResponse (errResponse c) s)

/-- The response as a word: `err` above `data` (`30_encoding.md` rule R42). -/
def responseWord (r : Response) : RspWord := r.err ++ r.data

/-- The fields of a response word (`30_encoding.md` rule R42). -/
def responseOfWord (w : RspWord) : Response :=
  { err := w.extractLsb' 128 1, data := w.extractLsb' 0 128 }

/-- The effect of `Reset` (`70_reset_and_hazards.md` rule R95): `SEEDED <- 0`, `STATE` becomes
unspecified, here a free value (log entry 2). The responses already transferred are the host's. -/
def applyReset (s : State) : State :=
  { s with
    state := Config.resetState s.freeCount
    seeded := false
    resetSeen := true
    freeCount := s.freeCount + 1 }

/-- An instance after power-up and before the first `Reset` (`70_reset_and_hazards.md` rule R98):
`STATE` and `SEEDED` are unspecified, hence arguments (log entry 6). -/
def powerUp (v : U128) (b : Bool) (prog : List HostAction) : State where
  state := v
  seeded := b
  resetSeen := false
  program := prog
  index := 0
  responses := []
  freeCount := 0

/-- The next host action (`10_state.md` rule R22). -/
def fetch (s : State) : Option HostAction := s.program[s.index]?

/-- The host's counter advances by 1 per action (`10_state.md` rule R22). -/
def advance (s : State) : State := { s with index := s.index + 1 }

/-- Between commands the block is idle with `STATE` and `SEEDED` held (`60_exceptions.md` rule R93; log
entry 4). -/
def idle (s : State) : Result := .next s

/-- The host action `Reset`: no response (`70_reset_and_hazards.md` rule R104). -/
def hostReset (s : State) : Result := .next (applyReset (advance s))

/-- A command before the first `Reset` after power-up has no meaning: the run is refused
(`70_reset_and_hazards.md` rule R98). -/
def afterFirstReset (s : State) (k : Result) : Result :=
  if s.resetSeen then k else .refused .beforeFirstReset

/-- The host starts a program at its first action (`10_state.md` rule R22). On an instance already used
the block's state stays, and the host's record keeps the earlier run's responses (DESIGN CHOICE, log
entry 14). -/
def loadProgram (prog : List HostAction) (s : State) : State := { s with program := prog, index := 0 }

/-- `s` with the command word `w` as its next host action. An index past the end of the program (no
run reaches one) is brought back to the end, and the instance counts as reset, so that the command
runs (log entry 3). -/
def placeCommand (w : CmdWord) (s : State) : State :=
  { s with
    program := s.program.take s.index ++ .cmd w :: s.program.drop (s.index + 1)
    index := (s.program.take s.index).length
    resetSeen := true }

end Sys2Proof.Machine
end

