-- ==== Sys2Proof/Machine/Flags.lean ====
section
/-! DEFINITION. The one flag, `SEEDED` (`10_state.md` rule R18): read, set, shown on a signal, and
checked first by the two commands that read `STATE` (`60_exceptions.md` rule R82). No arithmetic
writes a flag (`40_step_mad.md` rules R54, R55, `42_draw_permute.md` rule R68). -/

namespace Sys2Proof.Machine

/-- `SEEDED` (read). -/
def isSeeded (s : State) : Bool := s.seeded

/-- `SEEDED <- 1`. -/
def mark (s : State) : State := { s with seeded := true }

/-- The output signal `seeded`: the current value of the flag (`30_encoding.md` rule R39). -/
def seededSignal (s : State) : BitVec 1 := BitVec.ofBool s.seeded

/-- The check made before `STATE` is read: `if SEEDED = 0 then raise Unseeded()`
(`60_exceptions.md` rule R82). -/
def whenSeeded (s : State) (k : Result) : Result :=
  if isSeeded s then k else raise .unseeded s

end Sys2Proof.Machine
end

