-- ==== Sys2Proof/Machine/Access.lean ====
section
/-! DEFINITION. Raw state access: the commands `GETSTATE` and `SETSTATE` (`43_state_access.md` rules
R76, R77). -/

namespace Sys2Proof.Machine

/-- `GETSTATE` (`43_state_access.md` rule R76). -/
def execGetstate (s : State) : Result := whenSeeded s (respond (readState s) s)

/-- `SETSTATE v` (`43_state_access.md` rule R77): no scrambling; neither old value is read. -/
def execSetstate (v : U128) (s : State) : Result := respond 0 (mark (writeState v s))

end Sys2Proof.Machine
end

