-- ==== Sys2Proof/Machine/Operands.lean ====
section
/-! DEFINITION. The slices of the 128-bit state and the widening of a result. The block has no
register field and no addressing mode (`30_encoding.md` rules R41, R49): the one operand is
`cmd_word[127:0]`, taken by the decoder. -/

namespace Sys2Proof.Machine

/-- `HIGH = x[127:64]` (`10_state.md` rule R15). -/
def highWord (x : U128) : U64 := x.extractLsb' 64 64

/-- `LOW = x[63:0]` (`10_state.md` rule R15). -/
def lowWord (x : U128) : U64 := x.extractLsb' 0 64

/-- `ROT = HIGH[63:58]`, the top six bits of the high word (`10_state.md` rule R15,
`42_draw_permute.md` rule R67). -/
def rotAmount (x : U128) : U6 := (highWord x).extractLsb' 58 6

/-- `zext_128(v)` of a 64-bit value (`00_scope.md` rule R9). -/
def zext128 (v : U64) : U128 := v.setWidth 128

end Sys2Proof.Machine
end

