-- ==== Sys2Proof/Machine/Mad.lean ====
section
/-! DEFINITION. MAD128, the 128-bit modular multiplier-adder (`40_step_mad.md`): the step `lcg`, its
wrapping arithmetic, the double-word form an implementation may use, and the inverse map. -/

namespace Sys2Proof.Machine

/-- `a *128 b`: the low 128 bits of the exact product (`40_step_mad.md` rule R54). -/
def mul128 (a b : U128) : U128 := a * b

/-- `a +128 b`: the low 128 bits of the exact sum (`40_step_mad.md` rule R55); also the seed adder of
rule R61. -/
def add128 (a b : U128) : U128 := a + b

/-- `a -128 b = (a - b) mod 2^128` (`40_step_mad.md` rule R59 (g)). -/
def sub128 (a b : U128) : U128 := a - b

/-- `lcg(x) = (x *128 MULTIPLIER) +128 INCREMENT` (`40_step_mad.md` rule R53). Both
operations commute, and both constants are written first: a proof that compares `lcg x` with something
else by unfolding then stops at the variable instead of counting down a literal. -/
def lcg (x : U128) : U128 := add128 Config.increment (mul128 Config.multiplier x)

/-- `lcg_inv(y) = (y -128 INCREMENT) *128 MULTIPLIER_INV` (`40_step_mad.md` rule R59 (g)). The block
does not compute it; no command steps backward. -/
def lcgInv (y : U128) : U128 := mul128 Config.multiplierInv (sub128 y Config.increment)

/-- The exact 64 by 64 to 128 bit product (`40_step_mad.md` rule R56). -/
def mul64Exact (a b : U64) : U128 := zext128 a * zext128 b

/-- `p0 = xl * ml`, exact (`40_step_mad.md` rule R56). -/
def madP0 (x : U128) : U128 := mul64Exact (lowWord x) (lowWord Config.multiplier)

/-- `cross = (xh *64 ml) +64 (xl *64 mh)` (`40_step_mad.md` rule R56). -/
def madCross (x : U128) : U64 :=
  highWord x * lowWord Config.multiplier + lowWord x * highWord Config.multiplier

/-- `ph = p0[127:64] +64 cross` (`40_step_mad.md` rule R56). -/
def madPh (x : U128) : U64 := highWord (madP0 x) + madCross x

/-- `pl = p0[63:0]` (`40_step_mad.md` rule R56). -/
def madPl (x : U128) : U64 := lowWord (madP0 x)

/-- `sum = pl + cl`, exact, 65 bits (`40_step_mad.md` rule R56). -/
def madSum (x : U128) : BitVec 65 := (madPl x).setWidth 65 + (lowWord Config.increment).setWidth 65

/-- `carry = sum[64]` (`40_step_mad.md` rule R56). -/
def madCarry (x : U128) : BitVec 1 := (madSum x).extractLsb' 64 1

/-- `lo = sum[63:0]` (`40_step_mad.md` rule R56). -/
def madLo (x : U128) : U64 := (madSum x).extractLsb' 0 64

/-- `hi = ph +64 ch +64 carry` (`40_step_mad.md` rule R56). -/
def madHi (x : U128) : U64 := madPh x + highWord Config.increment + (madCarry x).setWidth 64

/-- The step built from 64-bit words: `{hi, lo}` (`40_step_mad.md` rule R56). It is no second
definition of the step: that it equals `lcg` is a statement. -/
def lcgDoubleWord (x : U128) : U128 := madHi x ++ madLo x

/-- The exact product of two 64-bit words from four 32-bit multiplies, each partial product an exact
64-bit value, summed in 128 bits (`40_step_mad.md` rule R56). -/
def mul64From32 (a b : U64) : U128 :=
  let part (u v : BitVec 32) : U128 := zext128 (u.setWidth 64 * v.setWidth 64)
  let a0 := a.extractLsb' 0 32
  let a1 := a.extractLsb' 32 32
  let b0 := b.extractLsb' 0 32
  let b1 := b.extractLsb' 32 32
  part a0 b0 + ((part a0 b1 + part a1 b0) <<< 32) + (part a1 b1 <<< 64)

end Sys2Proof.Machine
end

