-- ==== Sys2Proof/Machine/Opu.lean ====
section
/-! DEFINITION. OPU, the output permutation unit (`42_draw_permute.md` rules R67 to R70): xor-fold and
variable rotate right. -/

namespace Sys2Proof.Machine

/-- Circular right rotation of a 64-bit word (`42_draw_permute.md` rule R68). The shift form is sound
at `r = 0` too: a left shift by 64 gives 0 here. -/
def rotr64 (m : U64) (r : U6) : U64 := (m >>> r.toNat) ||| (m <<< (64 - r.toNat))

/-- `mixed = high xor low` (`42_draw_permute.md` rule R67). -/
def xorFold (x : U128) : U64 := highWord x ^^^ lowWord x

/-- `perm(x) = rotr64(x[127:64] xor x[63:0], x[127:122])` (`42_draw_permute.md` rule R67,
`00_scope.md` rule R11). -/
def perm (x : U128) : U64 := rotr64 (xorFold x) (rotAmount x)

end Sys2Proof.Machine
end

