-- ==== Sys2Proof/Machine/Draw.lean ====
section
/-! DEFINITION. The draw: the command `NEXT` (`42_draw_permute.md` rule R71). -/

namespace Sys2Proof.Machine

/-- The micro-operation `STEP`: `STATE <- lcg(STATE)` (`40_step_mad.md` rule R58). -/
def stepState (s : State) : State := writeState (lcg (readState s)) s

/-- The new state `n` replaces `STATE`, and the command answers with the output taken from `n`, zero
extended (`42_draw_permute.md` rules R71, R73; `30_encoding.md` rule R42). -/
def drawFrom (n : U128) (s : State) : Result := respond (zext128 (perm n)) (writeState n s)

/-- `NEXT` (`42_draw_permute.md` rule R71): the check, then the step, then the output taken from the
NEW state (rule R73). -/
def execNext (s : State) : Result := whenSeeded s (drawFrom (lcg (readState s)) s)

end Sys2Proof.Machine
end

