-- ==== Sys2Proof/Machine/Seed.lean ====
section
/-! DEFINITION. Seeding: the command `SEED` (`41_seed.md` rules R62, R63). -/

namespace Sys2Proof.Machine

/-- `seedfn(s) = lcg(lcg(0) +128 s)`: step the zero state, add the seed, step again (`41_seed.md` rule
R62). -/
def seedfn (s : U128) : U128 := lcg (add128 (lcg 0) s)

/-- `SEED v` (`41_seed.md` rule R63): neither the old `STATE` nor the old `SEEDED` is read. -/
def execSeed (v : U128) (s : State) : Result := respond 0 (mark (writeState (seedfn v) s))

end Sys2Proof.Machine
end

