-- ==== Sys2Proof/Machine/Dispatch.lean ====
section
/-! DEFINITION. One arm per command (`70_reset_and_hazards.md` rule R104). -/

namespace Sys2Proof.Machine

def exec (i : Instr) (s : State) : Host.Outcome State Fault Refusal :=
  match i with
  | .next => Sys2Proof.Machine.execNext s
  | .seed v => Sys2Proof.Machine.execSeed v s
  | .getstate => Sys2Proof.Machine.execGetstate s
  | .setstate v => Sys2Proof.Machine.execSetstate v s

end Sys2Proof.Machine
end

