-- ==== Sys2Proof/Machine/Step.lean ====
section
/-! DEFINITION. One step: one host action, executed completely (`00_scope.md` rule R6,
`70_reset_and_hazards.md` rule R104). -/

namespace Sys2Proof.Machine

/-- One host action (`70_reset_and_hazards.md` rule R104): a `Reset` (rule R95), or a command word,
decoded and executed as one indivisible action (`20_memory.md` rule R30), with the host's counter
advanced by 1 (`10_state.md` rule R22). With no action left the block idles (log entry 4). -/
def step (s : State) : Host.Outcome State Fault Refusal :=
  match fetch s with
  | none => idle s
  | some .reset => hostReset s
  | some (.cmd w) => afterFirstReset s (exec (decode w) (advance s))

/-- `s` with the command of an opcode-table word placed where `step` takes its next action (log
entries 3 and 7). -/
def State.withFetchWord (s : State) (nbits w : Nat) : State :=
  match tableWord nbits w with
  | none => s
  | some cw => placeCommand cw s

end Sys2Proof.Machine
end

