-- ==== Sys2Proof/WellFormed.lean ====
section
/-! DEFINITION. Well-formedness. Every command is well-formed: no operand value is illegal
(`30_encoding.md` rules R44, R45). What can be ill-formed is the source text of a program: the
assembler's literal outside the 128-bit range (rule R47) and the repeat count 0 (rule R48). -/

namespace Sys2Proof

/-- The range check on a literal: `0 .. 2^128 - 1` (`30_encoding.md` rule R47). -/
def literalFits (n : Nat) : Bool := decide (n < 2 ^ 128)

/-- The check on the count of `NEXT xN`: a positive literal (`30_encoding.md` rule R48). -/
def repeatCountOk (n : Nat) : Bool := decide (0 < n)

/-- The value a command carries in its operand field, 0 where the field is ignored (`30_encoding.md`
rules R41, R45: the assembler emits 0). -/
def operandValue : Instr → Nat
  | .next => 0
  | .seed s => s.toNat
  | .getstate => 0
  | .setstate v => v.toNat

/-- A command is well-formed when its operand fits the operand field. The type of `Instr` already
sees to it: every command is (`Laws/PerInstr.lean`), as rule R45 says. -/
abbrev WellFormed (i : Instr) : Prop := literalFits (operandValue i) = true

end Sys2Proof
end

