-- ==== Sys2Proof/Machine/Assembler.lean ====
section
/-! DEFINITION. The assembler syntax of a program (`30_encoding.md` rules R47, R48): a line of text, the
line it stands for, the host actions it assembles to. Text is a list of characters. -/

namespace Sys2Proof.Machine

/-- A line of a program (rules R47, R48). -/
inductive AsmLine where
  /-- Nothing but white space or a comment. -/
  | blank
  | next
  /-- `NEXT xN`. -/
  | nextTimes (n : Nat)
  | seed (n : Nat)
  /-- Pseudo-instruction: the source's `reseed`. -/
  | reseed (n : Nat)
  /-- Pseudo-instruction: the source's `new`. -/
  | new (n : Nat)
  | getstate
  | setstate (n : Nat)
  /-- The directive `RESET`: a host action, no command. -/
  | reset
deriving DecidableEq, Repr

/-- The action of a command: its encoding on the command port (rule R47). -/
def asmCommand (i : Instr) : HostAction := .cmd (encode i)

/-- A literal that must be a 128-bit value: one out of range is rejected, not wrapped (rule R47). -/
def withLiteral (n : Nat) (k : U128 → Instr) : Option (List HostAction) :=
  if literalFits n then some [asmCommand (k (BitVec.ofNat 128 n))] else none

/-- The host actions of a line, pseudo-instructions expanded (rules R47, R48); `none` where the
assembler rejects it. -/
def assembleLine : AsmLine → Option (List HostAction)
  | .blank => some []
  | .next => some [asmCommand .next]
  | .nextTimes n => if repeatCountOk n then some (List.replicate n (asmCommand .next)) else none
  | .seed n => withLiteral n .seed
  | .reseed n => withLiteral n .seed
  | .new n => withLiteral n .seed
  | .getstate => some [asmCommand .getstate]
  | .setstate n => withLiteral n .setstate
  | .reset => some [.reset]

/-- The program of a list of lines. -/
def assemble : List AsmLine → Option (List HostAction)
  | [] => some []
  | l :: ls =>
    match assembleLine l, assemble ls with
    | some a, some as => some (a ++ as)
    | none, _ => none
    | some _, none => none

/-- The value of a digit in a base up to 16 (log entry 13: both cases of letter). -/
def digitValue (base : Nat) (c : Char) : Option Nat :=
  let n := c.toNat
  let v : Option Nat :=
    if 48 ≤ n ∧ n ≤ 57 then some (n - 48)
    else if 65 ≤ n ∧ n ≤ 70 then some (n - 55)
    else if 97 ≤ n ∧ n ≤ 102 then some (n - 87)
    else none
  v.bind fun d => if d < base then some d else none

/-- Digits, most significant first (`00_scope.md` rule R8). -/
def digitsValue (base : Nat) : List Char → Nat → Option Nat
  | [], acc => some acc
  | c :: cs, acc =>
    match digitValue base c with
    | none => none
    | some d => digitsValue base cs (acc * base + d)

/-- A non-empty decimal literal. -/
def parseDecimal : List Char → Option Nat
  | [] => none
  | c :: cs => digitsValue 10 (c :: cs) 0

/-- An unsigned literal in decimal, or in hex after `0x` (rule R47). -/
def parseLiteral : List Char → Option Nat
  | '0' :: 'x' :: c :: cs => digitsValue 16 (c :: cs) 0
  | cs => parseDecimal cs

/-- The characters before a comment: a `;` starts one (rule R47). -/
def stripComment (cs : List Char) : List Char := cs.takeWhile (fun c => c != ';')

/-- White space (log entry 13). -/
def isBlank (c : Char) : Bool := c == ' ' || c == '\t' || c == '\r'

/-- The words of a line; `cur` is the word being read, in reverse. -/
def wordsOf : List Char → (cur : List Char) → List (List Char)
  | [], [] => []
  | [], c :: cur => [(c :: cur).reverse]
  | x :: xs, [] => if isBlank x then wordsOf xs [] else wordsOf xs [x]
  | x :: xs, c :: cur =>
    if isBlank x then (c :: cur).reverse :: wordsOf xs [] else wordsOf xs (x :: c :: cur)

/-- A line from its words: a mnemonic in upper case, and its operand (rules R47, R48). What is no such
line is rejected: there is no `STEP`, `ADVANCE` or `BOUNDED` (rule R48). -/
def parseWords : List (List Char) → Option AsmLine
  | [] => some .blank
  | [m] =>
    if m = ['N', 'E', 'X', 'T'] then some .next
    else if m = ['G', 'E', 'T', 'S', 'T', 'A', 'T', 'E'] then some .getstate
    else if m = ['R', 'E', 'S', 'E', 'T'] then some .reset
    else none
  | [m, v] =>
    if m = ['N', 'E', 'X', 'T'] then
      match v with
      | 'x' :: ds => (parseDecimal ds).map .nextTimes
      | _ => none
    else if m = ['S', 'E', 'E', 'D'] then (parseLiteral v).map .seed
    else if m = ['S', 'E', 'T', 'S', 'T', 'A', 'T', 'E'] then (parseLiteral v).map .setstate
    else if m = ['R', 'E', 'S', 'E', 'E', 'D'] then (parseLiteral v).map .reseed
    else if m = ['N', 'E', 'W'] then (parseLiteral v).map .new
    else none
  | _ :: _ :: _ :: _ => none

/-- A line of text. -/
def parseLine (cs : List Char) : Option AsmLine := parseWords (wordsOf (stripComment cs) [])

/-- A program from its lines of text. -/
def assembleText (lines : List (List Char)) : Option (List HostAction) :=
  (lines.mapM parseLine).bind assemble

end Sys2Proof.Machine
end

