-- ==== Sys2Proof/Machine/Micro.lean ====
section
/-! DEFINITION. The micro-operations the sequencer runs (`30_encoding.md` rule R50, `41_seed.md` rule
R64). They are internal: no host can issue one, and only the effect of a whole sequence is
architectural. `step` does not use them; the port machine (Machine/Port.lean) does. -/

namespace Sys2Proof.Machine

/-- A micro-operation (rule R50). -/
inductive MicroOp where
  | clr
  | step
  | adds (s : U128)
  | load (v : U128)
  | extract
  | read
  | mark
deriving DecidableEq, Repr

/-- The state engine with the outputs of the OPU and of the read path (rule R50). -/
structure Engine where
  /-- The instance. -/
  core : State
  /-- `out64`, the output of `EXTRACT`. -/
  out64 : U64
  /-- `out128`, the output of `READ`. -/
  out128 : U128
deriving DecidableEq, Repr

/-- The effect of a micro-operation (rule R50). -/
def runMicro (m : MicroOp) (e : Engine) : Engine :=
  match m with
  | .clr => { e with core := writeState 0 e.core }
  | .step => { e with core := stepState e.core }
  | .adds s => { e with core := writeState (add128 (readState e.core) s) e.core }
  | .load v => { e with core := writeState v e.core }
  | .extract => { e with out64 := perm (readState e.core) }
  | .read => { e with out128 := readState e.core }
  | .mark => { e with core := mark e.core }

/-- The sequence of a command (rule R50), by the flag at its start: a `NEXT` or `GETSTATE` that raises
`Unseeded` runs none (`60_exceptions.md` rule R83). -/
def microOps (i : Instr) (seeded : Bool) : List MicroOp :=
  match i with
  | .seed s => [.clr, .step, .adds s, .step, .mark]
  | .setstate v => [.load v, .mark]
  | .next => if seeded then [.step, .extract] else []
  | .getstate => if seeded then [.read] else []

/-- A sequence of micro-operations. -/
def runMicros (ms : List MicroOp) (e : Engine) : Engine := ms.foldl (fun e m => runMicro m e) e

/-- The response once the sequence is done (`30_encoding.md` rule R42). -/
def microResponse (i : Instr) (e : Engine) : Response :=
  match i with
  | .seed _ => okResponse 0
  | .setstate _ => okResponse 0
  | .next => if isSeeded e.core then okResponse (zext128 e.out64) else errResponse .unseeded
  | .getstate => if isSeeded e.core then okResponse e.out128 else errResponse .unseeded

end Sys2Proof.Machine
end

