-- ==== Sys2Proof/Machine/Port.lean ====
section
/-! DEFINITION. The block one level below a whole command: the handshake of the two ports
(`30_encoding.md` rules R39, R40), the hidden sequencer state (`10_state.md` rule R24), a command in
flight and a reset that discards it (`70_reset_and_hazards.md` rule R96). Moments only, no time: a
tick is one micro-operation, not a clock cycle (log entries 8 and 9). The machine the host steps is
Machine/Step.lean; this one is stated to refine it. -/

namespace Sys2Proof.Machine

/-- What the sequencer holds (`10_state.md` rule R24). -/
inductive Phase where
  /-- No command in flight, no response pending. -/
  | idle
  /-- A command latched, with the micro-operations it has still to run. -/
  | busy (i : Instr) (todo : List MicroOp)
  /-- A response offered (`rsp_valid`) and not yet transferred. -/
  | responding (r : Response)
deriving DecidableEq, Repr

/-- One instance with its ports. `engine.core.responses` holds the responses transferred. -/
structure Port where
  /-- The state engine. -/
  engine : Engine
  /-- The word on `cmd_word` while the host asserts `cmd_valid`. -/
  offer : Option CmdWord
  /-- The sequencer. -/
  phase : Phase
deriving DecidableEq, Repr

/-- What can happen at the ports (`30_encoding.md` rules R39, R40). -/
inductive PortEvent where
  /-- The host asserts `cmd_valid` with this `cmd_word`. -/
  | offer (w : CmdWord)
  /-- The host deasserts `cmd_valid`. -/
  | withdraw
  /-- The moment `cmd_valid` and `cmd_ready` are both asserted. -/
  | accept
  /-- The sequencer runs its next micro-operation, or offers the response. -/
  | tick
  /-- The moment `rsp_valid` and `rsp_ready` are both asserted. -/
  | transfer
  /-- An assertion of `rst`. -/
  | rst
deriving DecidableEq, Repr

/-- What an event answers. -/
abbrev PortResult := Host.Outcome Port Fault Refusal

/-- `cmd_ready`: deasserted from the acceptance of a command until its response has been transferred
(`30_encoding.md` rule R40). -/
def cmdReady (p : Port) : Bool :=
  match p.phase with
  | .idle => true
  | .busy _ _ => false
  | .responding _ => false

/-- The response offered, if one is. -/
def offeredResponse (p : Port) : Option Response :=
  match p.phase with
  | .idle => none
  | .busy _ _ => none
  | .responding r => some r

/-- `rsp_valid` (`30_encoding.md` rule R39). -/
def rspValid (p : Port) : Bool := (offeredResponse p).isSome

/-- `rsp_word`, which has a value only while `rsp_valid` (log entry 10). -/
def rspWord (p : Port) : Option RspWord := (offeredResponse p).map responseWord

/-- The host keeps `cmd_valid` and `cmd_word` until acceptance (`30_encoding.md` rule R40); a changed
word breaks `70_reset_and_hazards.md` rule R99 (log entry 9). -/
def portOffer (w : CmdWord) (p : Port) : PortResult :=
  match p.offer with
  | none => .next { p with offer := some w }
  | some v => if v = w then .next p else .fault .handshakeViolated

/-- Withdrawing an offer breaks `70_reset_and_hazards.md` rule R99 (log entry 9). -/
def portWithdraw (p : Port) : PortResult :=
  match p.offer with
  | none => .next p
  | some _ => .fault .handshakeViolated

/-- The word offered at that moment is the command executed (`30_encoding.md` rule R40). -/
def startCommand (i : Instr) (p : Port) : Port :=
  { p with offer := none, phase := .busy i (microOps i (isSeeded p.engine.core)) }

/-- Acceptance (`30_encoding.md` rule R40). -/
def portAccept (p : Port) : PortResult :=
  match p.offer, cmdReady p with
  | some w, true =>
    if p.engine.core.resetSeen then .next (startCommand (decode w) p) else .refused .beforeFirstReset
  | some _, false => .refused .noSuchMoment
  | none, _ => .refused .noSuchMoment

/-- The sequencer advances; with nothing in flight, or a response waiting, it does nothing. -/
def portTick (p : Port) : PortResult :=
  match p.phase with
  | .idle => .next p
  | .busy i (m :: ms) => .next { p with engine := runMicro m p.engine, phase := .busy i ms }
  | .busy i [] => .next { p with phase := .responding (microResponse i p.engine) }
  | .responding _ => .next p

/-- Transfer of the response (`30_encoding.md` rule R40). -/
def portTransfer (p : Port) : PortResult :=
  match p.phase with
  | .idle => .refused .noSuchMoment
  | .busy _ _ => .refused .noSuchMoment
  | .responding r =>
    .next { p with engine := { p.engine with core := giveResponse r p.engine.core }, phase := .idle }

/-- `Reset` beats everything: the command in flight is discarded unanswered and leaves no trace
(`70_reset_and_hazards.md` rules R95, R96). What the host offers is the host's (log entry 9). -/
def portReset (p : Port) : PortResult :=
  .next { p with
    engine := { core := applyReset p.engine.core, out64 := 0, out128 := 0 }
    phase := .idle }

/-- One event. -/
def portEvent (e : PortEvent) (p : Port) : PortResult :=
  match e with
  | .offer w => portOffer w p
  | .withdraw => portWithdraw p
  | .accept => portAccept p
  | .tick => portTick p
  | .transfer => portTransfer p
  | .rst => portReset p

/-- A sequence of events, stopping where one stops. -/
def portRun : List PortEvent → Port → PortResult
  | [], p => .next p
  | e :: es, p =>
    match portEvent e p with
    | .next q => portRun es q
    | .fault f => .fault f
    | .refused r => .refused r

/-- The ticks from acceptance to the offer of the response (`70_reset_and_hazards.md` rules R102,
R103: finite and at least 1). -/
def ticksOf (i : Instr) (seeded : Bool) : Nat := (microOps i seeded).length + 1

/-- The events of one whole command: offered, accepted, run, its response transferred. -/
def commandEvents (w : CmdWord) (n : Nat) : List PortEvent :=
  .offer w :: .accept :: (List.replicate n .tick ++ [.transfer])

/-- An instance with idle ports. -/
def idlePort (s : State) : Port :=
  { engine := { core := s, out64 := 0, out128 := 0 }, offer := none, phase := .idle }

/-- The ports after reset: idle, nothing pending (`10_state.md` rule R25; log entry 10). -/
def portAtReset : Port := idlePort State.reset

end Sys2Proof.Machine
end

