-- ==== Sys2Proof/Machine/Requesters.lean ====
section
/-! DEFINITION. Several requesters on one instance (`20_memory.md` rule R38): something outside the
block merges their commands into the one stream the port accepts, in an order the spec leaves
unconstrained. The order is the parameter `choices`; every merge is some `choices`. -/

namespace Sys2Proof.Machine

/-- The merged stream, each action with the number of the requester it comes from: the next choice
names the requester whose next action enters the stream. A choice that names no requester, or one
with nothing left, adds nothing (log entry 12). -/
def merge : (choices : List Nat) → (queues : List (List HostAction)) → List (Nat × HostAction)
  | [], _ => []
  | c :: cs, qs =>
    match qs[c]? with
    | none => merge cs qs
    | some [] => merge cs qs
    | some (a :: rest) => (c, a) :: merge cs (qs.set c rest)

/-- The one stream the command port accepts. -/
def sharedProgram (choices : List Nat) (queues : List (List HostAction)) : List HostAction :=
  (merge choices queues).map Prod.snd

/-- The responses that belong to requester `k`: one per command, in order (`30_encoding.md` rule
R42). -/
def receivedBy (k : Nat) : List (Nat × HostAction) → List Response → List Response
  | [], _ => []
  | (_, .reset) :: ts, rs => receivedBy k ts rs
  | (_, .cmd _) :: _, [] => []
  | (j, .cmd _) :: ts, r :: rs => if j = k then r :: receivedBy k ts rs else receivedBy k ts rs

end Sys2Proof.Machine
end

