-- ==== Sys2Proof/Machine/System.lean ====
section
/-! DEFINITION. Several instances (`10_state.md` rule R26, `60_exceptions.md` rule R91,
`70_reset_and_hazards.md` rule R104): one state per instance, nothing shared; each action names its
instance. Their number `N_INST` is the length of the list. -/

namespace Sys2Proof.Machine

/-- The instances of a system. -/
abbrev System := List State

/-- What an action on a system answers. -/
abbrev SystemResult := Host.Outcome System Fault Refusal

/-- `n` instances, each right after its own reset. -/
def systemAtReset (n : Nat) : System := List.replicate n State.reset

/-- Instance `k` executes its next host action (log entry 11 for a `k` that names none). -/
def systemStep (k : Nat) (sys : System) : SystemResult :=
  match sys[k]? with
  | none => .refused .noSuchInstance
  | some s =>
    match step s with
    | .next t => .next (sys.set k t)
    | .fault f => .fault f
    | .refused r => .refused r

/-- A run of the system: the instances named act one after another. -/
def systemRun : List Nat → System → SystemResult
  | [], sys => .next sys
  | k :: ks, sys =>
    match systemStep k sys with
    | .next t => systemRun ks t
    | .fault f => .fault f
    | .refused r => .refused r

end Sys2Proof.Machine
end

