-- ==== Sys2Proof/Machine/Transaction.lean ====
section
/-! DEFINITION. The block at the transaction level as a function on an optional 128-bit value, word for
word the function `exec` of `70_reset_and_hazards.md` rule R104 in the option form that
`10_state.md` rule R19 allows; and sequences of commands on the machine itself. -/

namespace Sys2Proof.Machine

/-- The block state of an instance as an optional value: `none` for `SEEDED = 0` (`10_state.md` rule
R19). -/
def blockOf (s : State) : Option U128 := if s.seeded then some s.state else none

/-- `exec(st, Cmd(w))` after decoding (rule R104). -/
def transactCommand : Instr → Option U128 → Option U128 × Response
  | .seed v, _ => (some (seedfn v), okResponse 0)
  | .setstate v, _ => (some v, okResponse 0)
  | .next, none => (none, errResponse .unseeded)
  | .next, some x => (some (lcg x), okResponse (zext128 (perm (lcg x))))
  | .getstate, none => (none, errResponse .unseeded)
  | .getstate, some x => (some x, okResponse x)

/-- `exec(st, action)` (rule R104): a `Reset` has no response. -/
def transact : HostAction → Option U128 → Option U128 × Option Response
  | .reset, _ => (none, none)
  | .cmd w, b => ((transactCommand (decode w) b).1, some (transactCommand (decode w) b).2)

/-- A run of a program from a block state: the left-to-right fold of `exec`, with the responses in
order (rule R104). -/
def runActions : List HostAction → Option U128 → Option U128 × List Response
  | [], b => (b, [])
  | a :: as, b =>
    ((runActions as (transact a b).1).1, (transact a b).2.toList ++ (runActions as (transact a b).1).2)

/-- `n` steps of the machine, stopping where one stops (the host's `Core.run`, on this machine's own
types). -/
def runSteps : Nat → State → Result
  | 0, s => .next s
  | n + 1, s =>
    match step s with
    | .next t => runSteps n t
    | .fault f => .fault f
    | .refused r => .refused r

/-- Commands executed one after another on the machine (`20_memory.md` rule R30), stopping where one
stops. -/
def execAll : List Instr → State → Result
  | [], s => .next s
  | i :: is, s =>
    match exec i s with
    | .next t => execAll is t
    | .fault f => .fault f
    | .refused r => .refused r

end Sys2Proof.Machine
end

