-- ==== Sys2Proof/Safety.lean ====
section
/-! DEFINITION. What a run shows: whether it has faulted (`60_exceptions.md` rule R84,
`70_reset_and_hazards.md` rule R104), and the invariant that ties an instance to the host actions it
has executed. -/

namespace Sys2Proof.Machine

/-- A run has faulted if any of its responses has `err = 1` (`70_reset_and_hazards.md` rule R104). The
record looked at is all the host keeps, an earlier run's responses among them (DESIGN CHOICE, log entry
14). -/
def hasFaulted (s : State) : Bool := s.responses.any (fun r => r.err == 1)

/-- Whether the command puts a value into `STATE` whatever it was (`10_state.md` rule R18). -/
def setsSeeded : Instr → Bool
  | .next => false
  | .seed _ => true
  | .getstate => false
  | .setstate _ => true

/-- Whether the command reads `STATE`, and so can raise `Unseeded` (`60_exceptions.md` rule R81). -/
def readsState : Instr → Bool
  | .next => true
  | .seed _ => false
  | .getstate => true
  | .setstate _ => false

/-- What an action does to `SEEDED` (`10_state.md` rule R18): cleared by reset and by nothing else, set
by `SEED` and `SETSTATE`. -/
def seededBy (b : Bool) : HostAction → Bool
  | .reset => false
  | .cmd w => b || setsSeeded (decode w)

/-- `SEEDED` after these actions, from the reset state. -/
def seededAfter (as : List HostAction) : Bool := as.foldl seededBy false

/-- How many of the actions are commands. -/
def commandCount : List HostAction → Nat
  | [] => 0
  | .reset :: as => commandCount as
  | .cmd _ :: as => commandCount as + 1

/-- The invariant of a run from the reset state. -/
structure RunInv (s : State) : Prop where
  /-- The counter is an index of the program or its end (`10_state.md` rule R22). -/
  index_le : s.index ≤ s.program.length
  /-- Exactly one response per command executed (`30_encoding.md` rule R42). -/
  one_response : s.responses.length = commandCount (s.program.take s.index)
  /-- `SEEDED` records whether a `SEED` or `SETSTATE` has completed since the last reset
  (`10_state.md` rule R18). -/
  seeded_history : s.seeded = seededAfter (s.program.take s.index)
  /-- "A response with `err = 1` and `data` non-zero never occurs" (`95_test_vectors.md` 2.7). -/
  err_data : ∀ r ∈ s.responses, r.err = 1 → r.data = 0

end Sys2Proof.Machine
end

