-- ==== Sys2Proof/Certificates/Slice0/Obligations.lean ====
section
/-! DEFINITION. The statements for the provers, from the numbered rules of spec/. -/

open Sys2Proof Sys2Proof.Machine

/-! ## Encoding (`30_encoding.md`) -/

/-- Rule R45, whole: encode then decode is the identity on commands; decode then encode is the identity
exactly on words whose ignored bits are 0; and a command whose operand is ignored behaves identically
for all operands. Totality is the type of `decode`. -/
def Obligations.EncodeDecodeAndIgnoredBits : Prop :=
  (∀ i : Instr, decode (encode i) = i) ∧
  (∀ w : CmdWord, encode (decode w) = w ↔ (w.getLsbD 128 = true ∨ operandField w = 0)) ∧
  (∀ w w' : CmdWord, opField w = opField w' → w.getLsbD 128 = false →
    decode w = decode w' ∧ ∀ s : State, exec (decode w) s = exec (decode w') s)

/-- Rules R41 and R46: the two fields of a command word and its value as an integer; the decode function
and the encode function. -/
def Obligations.CommandWordFormat : Prop :=
  (∀ w : CmdWord, w.toNat = (opField w).toNat * 2 ^ 128 + (operandField w).toNat) ∧
  (∀ w : CmdWord,
    (opField w = 0b00 → decode w = .next) ∧
    (opField w = 0b01 → decode w = .seed (operandField w)) ∧
    (opField w = 0b10 → decode w = .getstate) ∧
    (opField w = 0b11 → decode w = .setstate (operandField w))) ∧
  (encode .next).toNat = 0 * 2 ^ 128 ∧
  (∀ s : U128, (encode (.seed s)).toNat = 1 * 2 ^ 128 + s.toNat) ∧
  (encode .getstate).toNat = 2 * 2 ^ 128 ∧
  (∀ v : U128, (encode (.setstate v)).toNat = 3 * 2 ^ 128 + v.toNat)

/-- Command words written out in the spec, one or more per command: the last from
`95_test_vectors.md` 2.5 (and rule R77), the others from 2.7; read by rule R46. -/
def Obligations.SampleCommandWordsDecode : Prop :=
  decode 0x000000000000000000000000000000000#130 = .next ∧
  decode 0x0000000000000000000000000DEADBEEF#130 = .next ∧
  decode 0x1000000000000000000000000000004D2#130 = .seed 1234 ∧
  decode 0x1FFFFFFFFFFFFFFFFFFFFFFFFFFFFFFFF#130 = .seed (BitVec.allOnes 128) ∧
  decode 0x2FFFFFFFFFFFFFFFFFFFFFFFFFFFFFFFF#130 = .getstate ∧
  decode 0x315E8F17F807A3FD1C738143E57A1F635#130 = .setstate 0x15E8F17F807A3FD1C738143E57A1F635#128

/-- Rule R43, the match and mask form: every word selects the row of the command it decodes to and no
other row; `op[0]` is 1 exactly for the commands that replace `STATE` from the operand, and `op[1]`
exactly for the raw state accesses. -/
def Obligations.OpcodeMapSelectsOneRow : Prop :=
  (∀ w : CmdWord, w &&& opcodeMask = opcodeMatch (decode w)) ∧
  (∀ (w : CmdWord) (i : Instr), w &&& opcodeMask = opcodeMatch i → opField (encode i) = opField w) ∧
  (∀ w : CmdWord, w.getLsbD 128 = setsSeeded (decode w)) ∧
  (∀ w : CmdWord, w.getLsbD 129 = true ↔ (decode w = .getstate ∨ ∃ v, decode w = .setstate v))

/-- Rule R42, the fields of a response word: `err` is bit 128 and `data` is bits 127:0; no bit is
dropped in either direction; the error response is the word `2^128`. -/
def Obligations.ResponseWordFormat : Prop :=
  (∀ r : Response, (responseWord r).toNat = r.err.toNat * 2 ^ 128 + r.data.toNat) ∧
  (∀ r : Response, responseOfWord (responseWord r) = r) ∧
  (∀ w : RspWord, responseWord (responseOfWord w) = w) ∧
  responseWord (errResponse .unseeded) = 0x100000000000000000000000000000000#129

/-! ## MAD128 (`40_step_mad.md`) -/

/-- Rule R53: the step, reduced once at the end and in the wrapping form, and its worked example. That
the two readings give the same value is marked derived by the spec. -/
def Obligations.StepIsModularAffine : Prop :=
  (∀ x : U128, (lcg x).toNat =
    (x.toNat * 0x2360ED051FC65DA44385DF649FCCF645 + 0x5851F42D4C957F2D14057B7EF767814F) % 2 ^ 128) ∧
  (∀ x : U128, lcg x =
    add128 (mul128 x 0x2360ED051FC65DA44385DF649FCCF645#128) 0x5851F42D4C957F2D14057B7EF767814F#128) ∧
  lcg 0 = 0x5851F42D4C957F2D14057B7EF767814F#128

/-- Rule R54: wrapping multiplication, with its corner cases and the worked example, and the signed
reading of it, which the spec marks as derived. -/
def Obligations.WrappingMultiplication : Prop :=
  (∀ a b : U128, (mul128 a b).toNat = (a.toNat * b.toNat) % 2 ^ 128) ∧
  (∀ a b : U128, mul128 a b = BitVec.ofInt 128 (a.toInt * b.toInt)) ∧
  (∀ b : U128, mul128 0 b = 0 ∧ mul128 1 b = b) ∧
  (∀ b : U128, (mul128 (BitVec.allOnes 128) b).toNat = (2 ^ 128 - b.toNat) % 2 ^ 128) ∧
  (∀ b : U128, (mul128 (BitVec.ofNat 128 (2 ^ 127)) b).toNat = if b.toNat % 2 = 1 then 2 ^ 127 else 0) ∧
  (∀ b : U128, (mul128 (BitVec.ofNat 128 (2 ^ 64)) b).toNat = (lowWord b).toNat * 2 ^ 64) ∧
  mul128 (BitVec.allOnes 128) 0x2360ED051FC65DA44385DF649FCCF645#128 =
    0xDC9F12FAE039A25BBC7A209B603309BB#128 ∧
  (2 ^ 128 - 1) * 0x2360ED051FC65DA44385DF649FCCF645 =
    0x2360ED051FC65DA44385DF649FCCF644 * 2 ^ 128 + 0xDC9F12FAE039A25BBC7A209B603309BB

/-- Rule R55: wrapping addition, with its corner cases and the worked example. -/
def Obligations.WrappingAddition : Prop :=
  (∀ a b : U128, (add128 a b).toNat = (a.toNat + b.toNat) % 2 ^ 128) ∧
  (∀ a : U128, add128 a 0 = a) ∧
  (∀ a : U128, add128 a (BitVec.allOnes 128) = a - 1) ∧
  add128 0 (BitVec.allOnes 128) = BitVec.allOnes 128 ∧
  add128 1 (BitVec.allOnes 128) = 0 ∧
  add128 0x5851F42D4C957F2D14057B7EF767814F#128 (BitVec.allOnes 128) =
    0x5851F42D4C957F2D14057B7EF767814E#128

/-- Rule R56 (derived by the spec): the step built from 64-bit words with carry propagation is
bit-identical to the step, the 64 by 64 product is exact, and it can be built from 32-bit
multiplies. -/
def Obligations.DoubleWordStepIsTheStep : Prop :=
  (∀ x : U128, lcgDoubleWord x = lcg x) ∧
  (∀ a b : U64, (mul64Exact a b).toNat = a.toNat * b.toNat) ∧
  (∀ a b : U64, mul64From32 a b = mul64Exact a b)

/-- Rule R59 (g) and (h) (derived by the spec): the step is a bijection with the inverse given; the one
state that steps to 0. -/
def Obligations.StepIsABijection : Prop :=
  (∀ x : U128, lcgInv (lcg x) = x) ∧
  (∀ y : U128, lcg (lcgInv y) = y) ∧
  (∀ x : U128, lcg x = 0 ↔ x = 0xDBA7208509DC6FBCF24B0FFAC22AB37D#128)

/-- Rule R59 (f) (derived by the spec): bit `i` of `lcg(x)` depends only on bits `i..0` of `x`. -/
def Obligations.StepLowBitsFromLowBits : Prop :=
  ∀ (n : Nat) (x y : U128), (∀ i, i ≤ n → x.getLsbD i = y.getLsbD i) →
    (lcg x).getLsbD n = (lcg y).getLsbD n

/-- Rule R60: no state lies on a tail; the sequence of states from any state comes back to it within
`2^128` steps. -/
def Obligations.StepOrbitsArePurelyPeriodic : Prop :=
  ∀ x : U128, ∃ k : Nat, 0 < k ∧ k ≤ 2 ^ 128 ∧ lcg^[k] x = x

/-! ## Seeding (`41_seed.md`) -/

/-- Rule R62, whole: step the zero state, add the seed with wrap, step again; the closed form and that
seeding is a bijection (both marked derived by the spec), so two different seeds give two different
seeded states; for every seed it is neither the seed itself nor one step of it; the worked example with
its intermediate values. -/
def Obligations.SeedingFunction : Prop :=
  (∀ s : U128, seedfn s = lcg (add128 (lcg 0) s)) ∧
  (∀ s : U128, (seedfn s).toNat =
    ((0x5851F42D4C957F2D14057B7EF767814F + s.toNat) * 0x2360ED051FC65DA44385DF649FCCF645
      + 0x5851F42D4C957F2D14057B7EF767814F) % 2 ^ 128) ∧
  Function.Bijective seedfn ∧
  (∀ s : U128, seedfn s ≠ s ∧ seedfn s ≠ lcg s) ∧
  lcg 0 = 0x5851F42D4C957F2D14057B7EF767814F#128 ∧
  add128 (lcg 0) 1234 = 0x5851F42D4C957F2D14057B7EF7678621#128 ∧
  seedfn 1234 = 0xD1A8417CC371D5C6276E5D26827E5E34#128

/-! ## OPU (`42_draw_permute.md`) -/

/-- Rule R68: rotation by bit index; it is a right rotation and loses no bit; the shift form, in which
or, xor and addition agree (marked derived by the spec); the worked examples. -/
def Obligations.RotateRightByBitIndex : Prop :=
  (∀ (m : U64) (r : U6) (i : Nat), i < 64 →
    (rotr64 m r).getLsbD i = m.getLsbD ((i + r.toNat) % 64)) ∧
  (∀ m : U64, rotr64 m 0 = m) ∧
  (∀ (m : U64) (r : U6), rotr64 m r = m.rotateLeft ((64 - r.toNat) % 64)) ∧
  (∀ (m : U64) (r : U6), 1 ≤ r.toNat →
    (m >>> r.toNat) &&& (m <<< (64 - r.toNat)) = 0 ∧
    rotr64 m r = (m >>> r.toNat) ||| (m <<< (64 - r.toNat)) ∧
    rotr64 m r = (m >>> r.toNat) ^^^ (m <<< (64 - r.toNat)) ∧
    rotr64 m r = (m >>> r.toNat) + (m <<< (64 - r.toNat))) ∧
  (∀ (m : U64) (r : U6), (List.range 64).countP (fun i => (rotr64 m r).getLsbD i) =
    (List.range 64).countP (fun i => m.getLsbD i)) ∧
  (∀ r : U6, rotr64 0 r = 0 ∧ rotr64 (BitVec.allOnes 64) r = BitVec.allOnes 64) ∧
  rotr64 1 1 = 0x8000000000000000#64 ∧
  rotr64 0xFC00000000000001#64 63 = 0xF800000000000003#64

/-- Rule R67: the output permutation, step by step and bit by bit, and its worked example. -/
def Obligations.OutputPermutation : Prop :=
  (∀ x : U128, (lowWord x).toNat = x.toNat % 2 ^ 64 ∧ (highWord x).toNat = x.toNat / 2 ^ 64 ∧
    (rotAmount x).toNat = (highWord x).toNat / 2 ^ 58 ∧
    perm x = rotr64 (highWord x ^^^ lowWord x) (rotAmount x)) ∧
  (∀ (x : U128) (i : Nat), i < 64 →
    (perm x).getLsbD i =
      (x.getLsbD (64 + (i + x.toNat / 2 ^ 122) % 64) ^^ x.getLsbD ((i + x.toNat / 2 ^ 122) % 64))) ∧
  xorFold 0xADAB4DCE76E4899C827429CAEF6CDD53#128 = 0x2FDF6404998854CF#64 ∧
  rotAmount 0xADAB4DCE76E4899C827429CAEF6CDD53#128 = 43 ∧
  perm 0xADAB4DCE76E4899C827429CAEF6CDD53#128 = 0x8093310A99E5FBEC#64

/-- Rule R69: the two readings of the rotate amount agree, and no reduction modulo 64 is needed. -/
def Obligations.RotateAmountReadings : Prop :=
  ∀ x : U128, (rotAmount x).toNat = (x >>> 122).toNat ∧
    (rotAmount x).toNat = (highWord x >>> 58).toNat ∧
    (x >>> 122).toNat < 64 ∧ rotAmount x = x.extractLsb' 122 6

/-- Rule R74: the corner values of the output permutation. -/
def Obligations.PermutationCornerValues : Prop :=
  perm 0x00000000000000000000000000000000#128 = 0x0000000000000000#64 ∧
  perm 0x00000000000000000000000000000001#128 = 0x0000000000000001#64 ∧
  perm 0x00000000000000010000000000000000#128 = 0x0000000000000001#64 ∧
  perm 0x80000000000000000000000000000000#128 = 0x0000000080000000#64 ∧
  perm 0xFFFFFFFFFFFFFFFFFFFFFFFFFFFFFFFF#128 = 0x0000000000000000#64 ∧
  perm 0xFFFFFFFFFFFFFFFF0000000000000000#128 = 0xFFFFFFFFFFFFFFFF#64 ∧
  perm 0xFC000000000000000000000000000001#128 = 0xF800000000000003#64 ∧
  perm 0xF80000000000000000000000000000FF#128 = 0xE0000000000003FF#64 ∧
  perm 0x04000000000000000000000000000000#128 = 0x0200000000000000#64 ∧
  perm 0x04000000000000000000000000000001#128 = 0x8200000000000000#64 ∧
  perm 0x80000000000000018000000000000001#128 = 0x0000000000000000#64 ∧
  perm 0x0123456789ABCDEFFEDCBA9876543210#128 = 0xFFFFFFFFFFFFFFFF#64

/-! ## The four commands -/

/-- Rule R63: `SEED` completes from every state, seeded or not, and neither old value is read; its
encoding, corner cases and worked example. Everything else is unchanged: the next state is written
out. -/
def Obligations.SeedCommand : Prop :=
  (∀ v : U128, (encode (.seed v)).toNat = 2 ^ 128 + v.toNat) ∧
  (∀ (v : U128) (s : State), exec (.seed v) s =
    .next { s with
      state := seedfn v, seeded := true, responses := s.responses ++ [{ err := 0, data := 0 }] }) ∧
  (∀ (v : U128) (s t u : State), exec (.seed v) s = .next t → exec (.seed v) t = .next u →
    u.state = t.state ∧ u.seeded = t.seeded) ∧
  seedfn 0 = 0x4871BEC9994273F8AC1F8A1C3883459A#128 ∧
  seedfn (BitVec.allOnes 128) = 0x2510D1C4797C16546899AAB798B64F55#128 ∧
  (∀ s : U128, seedfn s = 0xDBA7208509DC6FBCF24B0FFAC22AB37D#128 ↔
    s = 0x255F08AC491724C943E23190B9960A07#128) ∧
  (∀ s : U128, seedfn s = 0 ↔ s = 0x83552C57BD46F08FDE45947BCAC3322E#128) ∧
  encode (.seed 1234) = 0x1000000000000000000000000000004D2#130 ∧
  seedfn 1234 = 0xD1A8417CC371D5C6276E5D26827E5E34#128 ∧
  responseWord { err := 0, data := 0 } = 0

/-- Rule R71: `NEXT` on a seeded instance steps and answers with the permuted NEW state; on an unseeded
one it answers `Unseeded` and changes nothing of the block; its encoding, corner cases and worked
example. -/
def Obligations.NextCommand : Prop :=
  encode .next = 0 ∧ (∀ w : CmdWord, opField w = 0b00 → decode w = .next) ∧
  (∀ s : State, s.seeded = true → exec .next s =
    .next { s with
      state := lcg s.state
      responses := s.responses ++ [{ err := 0, data := (perm (lcg s.state)).setWidth 128 }] }) ∧
  (∀ s : State, s.seeded = false → exec .next s =
    .next { s with responses := s.responses ++ [{ err := 1, data := 0 }] }) ∧
  (∀ x : U128, lcg x = 0 ↔ x = 0xDBA7208509DC6FBCF24B0FFAC22AB37D#128) ∧
  (perm 0 = 0 ∧ rotAmount 0 = 0) ∧
  (∀ x : U128, highWord x = lowWord x → perm x = 0) ∧
  (∀ x : U128, rotAmount x = 0 → perm x = highWord x ^^^ lowWord x) ∧
  (∀ x : U128, rotAmount x = 63 → perm x = (highWord x ^^^ lowWord x).rotateLeft 1) ∧
  (∃ x y : U128, x ≠ y ∧ perm x = perm y) ∧
  lcg 0xD1A8417CC371D5C6276E5D26827E5E34#128 = 0xADAB4DCE76E4899C827429CAEF6CDD53#128 ∧
  responseWord (okResponse (zext128 (perm 0xADAB4DCE76E4899C827429CAEF6CDD53#128))) =
    0x000000000000000008093310A99E5FBEC#129

/-- Rule R76: `GETSTATE` on a seeded instance answers with `STATE` and writes nothing; on an unseeded
one it answers `Unseeded`; its operand is ignored; right after `SEED v` it returns `seedfn v`, right
after a `NEXT` the state whose permutation that `NEXT` returned, and twice in a row the same value;
placed anywhere in a stream it changes no other response and no later state; the worked example. -/
def Obligations.GetstateCommand : Prop :=
  encode .getstate = 0x200000000000000000000000000000000#130 ∧
  (∀ w : CmdWord, opField w = 0b10 → decode w = .getstate) ∧
  (∀ s : State, s.seeded = true → exec .getstate s =
    .next { s with responses := s.responses ++ [{ err := 0, data := s.state }] }) ∧
  (∀ s : State, s.seeded = false → exec .getstate s =
    .next { s with responses := s.responses ++ [{ err := 1, data := 0 }] }) ∧
  (∀ (v : U128) (s : State), ∃ t, execAll [.seed v, .getstate] s = .next t ∧
    t.responses = s.responses ++ [{ err := 0, data := 0 }, { err := 0, data := seedfn v }]) ∧
  (∀ s : State, s.seeded = true → ∃ t, execAll [.next, .getstate] s = .next t ∧
    t.responses = s.responses ++
      [{ err := 0, data := (perm t.state).setWidth 128 }, { err := 0, data := t.state }]) ∧
  (∀ s : State, s.seeded = true → ∃ t, execAll [.getstate, .getstate] s = .next t ∧
    t.responses = s.responses ++ [{ err := 0, data := s.state }, { err := 0, data := s.state }]) ∧
  (∀ (pre post : List Instr) (s : State), ∃ (t u : State) (rs rs' : List Response) (r : Response),
    execAll (pre ++ .getstate :: post) s = .next t ∧ execAll (pre ++ post) s = .next u ∧
    t.responses = s.responses ++ rs ++ r :: rs' ∧ u.responses = s.responses ++ rs ++ rs' ∧
    rs.length = pre.length ∧ rs'.length = post.length ∧ t.state = u.state ∧ t.seeded = u.seeded) ∧
  responseWord (okResponse 0xD1A8417CC371D5C6276E5D26827E5E34#128) =
    0x0D1A8417CC371D5C6276E5D26827E5E34#129

/-- Rule R77: `SETSTATE` completes from every state and stores the operand as it is; its encoding,
corner cases and worked example. -/
def Obligations.SetstateCommand : Prop :=
  (∀ v : U128, (encode (.setstate v)).toNat = 3 * 2 ^ 128 + v.toNat) ∧
  (∀ (v : U128) (s : State), exec (.setstate v) s =
    .next { s with
      state := v, seeded := true, responses := s.responses ++ [{ err := 0, data := 0 }] }) ∧
  (∀ s : State, ∃ t, execAll [.setstate 0, .next] s = .next t ∧
    t.state = 0x5851F42D4C957F2D14057B7EF767814F#128 ∧
    t.responses = s.responses ++ [{ err := 0, data := 0 }, { err := 0, data := 0xCBF98931523D4EEF#128 }]) ∧
  (∀ s : State, ∃ t, execAll [.setstate (BitVec.allOnes 128), .next] s = .next t ∧
    t.state = 0x34F107282CCF2188D07F9C1A579A8B0A#128 ∧
    t.responses = s.responses ++ [{ err := 0, data := 0 }, { err := 0, data := 0x54172474D993DAAD#128 }]) ∧
  (∀ s : State, ∃ t, execAll [.setstate 0x15E8F17F807A3FD1C738143E57A1F635#128, .next] s = .next t ∧
    t.responses = s.responses ++ [{ err := 0, data := 0 }, { err := 0, data := 17582746484101160380#128 }]) ∧
  lcg^[3] (seedfn 1234) = 0x15E8F17F807A3FD1C738143E57A1F635#128 ∧
  encode (.setstate 0x15E8F17F807A3FD1C738143E57A1F635#128) = 0x315E8F17F807A3FD1C738143E57A1F635#130

/-- What every command leaves unchanged, and that every command completes: the host's program and
counter, the power-up flag, the model's counter and the earlier responses are unchanged, exactly one
response is added; `STATE` is written by `NEXT` (seeded), `SEED` and `SETSTATE` only (rule R13), and
`SEEDED` by `SEED` and `SETSTATE` only (rule R18). -/
def Obligations.CommandFrame : Prop :=
  ∀ (i : Instr) (s : State), ∃ (t : State) (r : Response), exec i s = .next t ∧
    t.program = s.program ∧ t.index = s.index ∧ t.resetSeen = s.resetSeen ∧
    t.freeCount = s.freeCount ∧ t.responses = s.responses ++ [r] ∧
    (i = .getstate → t.state = s.state) ∧
    (readsState i = true → s.seeded = false → t.state = s.state) ∧
    (setsSeeded i = false → t.seeded = s.seeded)

/-! ## The exception (`60_exceptions.md`) and the flag -/

/-- Rule R83: `Unseeded` writes nothing of the block and answers the command in its own place with
`err = 1`, `data = 0`; the block goes on and answers the next command, whichever it is, after it. -/
def Obligations.UnseededIsAnswered : Prop :=
  (∀ (i : Instr) (s : State), readsState i = true → s.seeded = false →
    exec i s = .next { s with responses := s.responses ++ [{ err := 1, data := 0 }] }) ∧
  (∀ (i j : Instr) (s : State), readsState i = true → s.seeded = false →
    ∃ (t u : State) (r : Response), exec i s = .next t ∧ exec j t = .next u ∧
      t.state = s.state ∧ t.seeded = false ∧
      u.responses = s.responses ++ [{ err := 1, data := 0 }, r]) ∧
  responseWord { err := 1, data := 0 } = 0x100000000000000000000000000000000#129

/-- Rules R81 and R82: the complete list of exceptions: a command's response has `err = 1` if and only
if the command is `NEXT` or `GETSTATE` and `SEEDED` was 0 at its start, and then `data` is 0. -/
def Obligations.OnlyExceptionIsUnseeded : Prop :=
  ∀ (i : Instr) (s t : State) (r : Response), exec i s = .next t → t.responses = s.responses ++ [r] →
    (r.err = 1 ↔ (i = .next ∨ i = .getstate) ∧ s.seeded = false) ∧ (r.err = 1 → r.data = 0)

/-- Rule R80: for a seeded instance no command can fail, in any sequence of commands: each completes
and is answered with `err = 0`. -/
def Obligations.SeededInstanceNeverFails : Prop :=
  ∀ (cs : List Instr) (s : State), s.seeded = true → ∃ (t : State) (rs : List Response),
    execAll cs s = .next t ∧ t.seeded = true ∧ t.responses = s.responses ++ rs ∧
    rs.length = cs.length ∧ ∀ r ∈ rs, r.err = 0

/-- Rule R84: the error is not sticky: any number of faulting commands are answered alike and change
nothing, and after a `SEED` or `SETSTATE` the next draw and the next read succeed. -/
def Obligations.UnseededIsNotSticky : Prop :=
  (∀ (cs : List Instr) (s : State), s.seeded = false → (∀ i ∈ cs, readsState i = true) →
    execAll cs s = .next { s with
      responses := s.responses ++ List.replicate cs.length { err := 1, data := 0 } }) ∧
  (∀ (i j : Instr) (s : State), setsSeeded i = true → readsState j = true →
    ∃ (t : State) (d : U128), execAll [i, j] s = .next t ∧
      t.responses = s.responses ++ [{ err := 0, data := 0 }, { err := 0, data := d }])

/-- Rule R18: `SEEDED` is set by the completion of `SEED` and of `SETSTATE`, cleared by reset and by
nothing else, read by `NEXT` and `GETSTATE`, which raise `Unseeded` when it is 0, and shown on the
signal `seeded`. -/
def Obligations.SeededFlag : Prop :=
  (∀ (i : Instr) (s t : State), exec i s = .next t → t.seeded = (s.seeded || setsSeeded i)) ∧
  (∀ s t : State, fetch s = some .reset → step s = .next t → t.seeded = false) ∧
  (∀ s t : State, step s = .next t → s.seeded = true → t.seeded = false → fetch s = some .reset) ∧
  (∀ (i : Instr) (s : State), readsState i = true → s.seeded = false → exec i s = raise .unseeded s) ∧
  (∀ s : State, seededSignal s = if s.seeded then 1 else 0)

/-! ## The step, reset and power-up -/

/-- A step at a command word runs exactly the decoded command, on the state with the host's counter
advanced by 1 (rules R30, R104). -/
def Obligations.StepRunsDecodedCommand : Prop :=
  ∀ (s : State) (w : CmdWord), fetch s = some (.cmd w) → s.resetSeen = true →
    step s = exec (decode w) { s with index := s.index + 1 }

/-- Rule R95: `Reset` clears `SEEDED`, leaves `STATE` unspecified (the model's free value, log entry 2,
about which nothing is claimed), gives no response, and puts the ports' sequencer and signals at rest. -/
def Obligations.ResetAction : Prop :=
  (∀ s : State, fetch s = some .reset → ∃ v : U128, step s =
    .next { s with
      index := s.index + 1, state := v, seeded := false, resetSeen := true,
      freeCount := s.freeCount + 1 }) ∧
  (∀ p q : Port, portEvent .rst p = .next q →
    q.phase = .idle ∧ rspValid q = false ∧ q.engine.core.seeded = false ∧
    seededSignal q.engine.core = 0 ∧ q.engine.core.responses = p.engine.core.responses) ∧
  (∀ p : Port, ∃ q : Port, portEvent .rst p = .next q)

/-- Rule R98 (the refusal is the model's form of "it refuses the run", log entries 5 and 6): after
power-up, whatever `STATE` and `SEEDED` hold, a command before the first `Reset` is refused. Rules R95
and R96: a first `Reset` leads to the reset state, the same whatever they held; that its `STATE` is the
same too rests on the model's free value, which depends on the counter alone (log entry 2). -/
def Obligations.NothingBeforeFirstReset : Prop :=
  (∀ (v : U128) (b : Bool) (w : CmdWord) (as : List HostAction),
    step (powerUp v b (.cmd w :: as)) = .refused .beforeFirstReset) ∧
  (∀ as : List HostAction, ∃ t : State, t.resetSeen = true ∧ t.seeded = false ∧ t.index = 1 ∧
    ∀ (v : U128) (b : Bool), step (powerUp v b (.reset :: as)) = .next t)

/-- The model's choice (log entry 4, from rule R93): with the host's list exhausted a step changes
nothing. -/
def Obligations.ExhaustedProgramIdles : Prop :=
  ∀ s : State, s.program.length ≤ s.index → step s = .next s

/-- The command placed by `withFetchWord` is the one the next step runs, on the same block (the model's
interface, log entries 3 and 7). -/
def Obligations.PlacedWordRunsNext : Prop :=
  (∀ (s : State) (nbits w : Nat) (i : Instr), decodeTableWord nbits w = some i →
    ∃ t : State, step (s.withFetchWord nbits w) = exec i t ∧ t.state = s.state ∧
      t.seeded = s.seeded ∧ t.responses = s.responses ∧ t.freeCount = s.freeCount ∧
      t.index = min s.index s.program.length + 1) ∧
  (∀ i : Instr, decodeTableWord 130 (encodeNat i) = some i ∧ decodeTableWord 136 (encodeNat i) = some i)

/-- Rule R25: after reset `SEEDED` is 0, the sequencer is idle, and the signals `seeded` and `rsp_valid`
are 0. Of `STATE` nothing is claimed. -/
def Obligations.ResetState : Prop :=
  State.reset.seeded = false ∧ seededSignal State.reset = 0 ∧ State.reset.responses = [] ∧
  State.reset.index = 0 ∧ portAtReset.phase = .idle ∧ rspValid portAtReset = false ∧
  portAtReset.engine.core = State.reset ∧
  Config.multiplier = 0x2360ED051FC65DA44385DF649FCCF645#128 ∧
  Config.increment = 0x5851F42D4C957F2D14057B7EF767814F#128

/-! ## Invariants and refinement -/

/-- Every step keeps the run invariant (rules R18, R22, R42). -/
def Obligations.StepKeepsRunInvariant : Prop :=
  ∀ s t : State, RunInv s → step s = .next t → RunInv t

/-- The run invariant holds at reset, with any program loaded. -/
def Obligations.RunInvariantAtReset : Prop :=
  RunInv State.reset ∧ ∀ prog : List HostAction, RunInv (loadProgram prog State.reset)

/-- Rule R104: one step of the machine is the function `exec` of that rule, on the block state as an
optional value (rule R19): the same new block state and the same response. -/
def Obligations.StepRefinesTransaction : Prop :=
  ∀ (s : State) (a : HostAction), fetch s = some a → (s.resetSeen = true ∨ a = .reset) →
    ∃ t : State, step s = .next t ∧ blockOf t = (transact a (blockOf s)).1 ∧
      t.responses = s.responses ++ (transact a (blockOf s)).2.toList ∧
      t.index = s.index + 1 ∧ t.program = s.program ∧ t.resetSeen = true

/-- Rule R104: a run is the left-to-right fold of `exec` over the host's remaining actions; it always
ends, with the list exhausted; the host's record shows a fault if and only if one of its responses has
`err = 1`, that is if it showed one before the run or the run itself has faulted (log entry 14). -/
def Obligations.RunIsFoldOfActions : Prop :=
  ∀ (s : State) (n : Nat), s.resetSeen = true → (s.program.drop s.index).length ≤ n →
    ∃ t : State, runSteps n s = .next t ∧
      blockOf t = (runActions (s.program.drop s.index) (blockOf s)).1 ∧
      t.responses = s.responses ++ (runActions (s.program.drop s.index) (blockOf s)).2 ∧
      fetch t = none ∧ (hasFaulted t = true ↔ ∃ r ∈ t.responses, r.err = 1) ∧
      (hasFaulted t = true ↔ hasFaulted s = true ∨
        ∃ r ∈ (runActions (s.program.drop s.index) (blockOf s)).2, r.err = 1)

/-- Rule R19: the value `STATE` holds while `SEEDED = 0` never reaches a response and never feeds a
computation: two runs that differ only in it give the same responses, and the same state once
seeded. -/
def Obligations.UnseededStateNeverObserved : Prop :=
  ∀ (s : State) (v : U128) (n : Nat), s.seeded = false → s.resetSeen = true →
    ∃ t u : State, runSteps n s = .next t ∧ runSteps n { s with state := v } = .next u ∧
      u.responses = t.responses ∧ u.seeded = t.seeded ∧ (t.seeded = true → u.state = t.state)

/-- Rule R72: the response of every command, in any sequence of commands, is a function of `STATE`,
`SEEDED` and the commands, and of nothing else: not of the earlier responses (rule R20), the host's
program or the instance. -/
def Obligations.ResponsesDependOnBlockOnly : Prop :=
  ∀ (cs : List Instr) (s s' : State), s'.state = s.state → s'.seeded = s.seeded →
    ∃ (t t' : State) (rs : List Response), execAll cs s = .next t ∧ execAll cs s' = .next t' ∧
      t.responses = s.responses ++ rs ∧ t'.responses = s'.responses ++ rs ∧
      rs.length = cs.length ∧ t'.state = t.state ∧ t'.seeded = t.seeded

/-- Rule R72 (formula derived by the spec): the `k`-th `NEXT` after `SEED v` returns
`perm(lcg^(k)(seedfn(v)))`, from any state, for any number of draws. -/
def Obligations.DrawSequence : Prop :=
  ∀ (s : State) (v : U128) (k : Nat), ∃ t : State,
    execAll (.seed v :: List.replicate k .next) s = .next t ∧
    t.seeded = true ∧ t.state = lcg^[k] (seedfn v) ∧
    t.responses = s.responses ++ okResponse 0 ::
      (List.range k).map (fun j => okResponse (zext128 (perm (lcg^[j + 1] (seedfn v)))))

/-- Rule R65 (derived by the spec): reseeding any instance gives exactly the responses of a fresh
instance with that seed, for all later commands. -/
def Obligations.ReseedEquivalence : Prop :=
  ∀ (s s' : State) (v : U128) (cs : List Instr), ∃ (t t' : State) (rs : List Response),
    execAll (.seed v :: cs) s = .next t ∧ execAll (.seed v :: cs) s' = .next t' ∧
    t.responses = s.responses ++ rs ∧ t'.responses = s'.responses ++ rs ∧
    rs.length = cs.length + 1 ∧ t'.state = t.state ∧ t'.seeded = true ∧ t.seeded = true

/-- Rule R78 (derived by the spec): the value `GETSTATE` returns on one instance, written with
`SETSTATE` to another, resumes the stream: all later commands are answered alike. -/
def Obligations.StreamResumption : Prop :=
  ∀ a b : State, a.seeded = true → ∃ (v : U128) (a' b' : State),
    exec .getstate a = .next a' ∧ a'.responses = a.responses ++ [okResponse v] ∧
    exec (.setstate v) b = .next b' ∧
    ∀ cs : List Instr, ∃ (t u : State) (rs : List Response),
      execAll cs a' = .next t ∧ execAll cs b' = .next u ∧
      t.responses = a'.responses ++ rs ∧ u.responses = b'.responses ++ rs ∧
      rs.length = cs.length ∧ u.state = t.state

/-- Rule R73 (derived by the spec): a `GETSTATE` right after a `NEXT` returns the very state from which
that `NEXT`'s output was extracted; extracting before the step would give another first value. -/
def Obligations.OutputIsFromStateLeftBehind : Prop :=
  (∀ s : State, s.seeded = true → ∃ (t : State) (x : U128),
    execAll [.next, .getstate] s = .next t ∧ t.state = x ∧
    t.responses = s.responses ++ [okResponse (zext128 (perm x)), okResponse x]) ∧
  perm (seedfn 1234) = 0x61C5A410F8BF2F6C#64 ∧ perm (lcg (seedfn 1234)) = 0x8093310A99E5FBEC#64

/-- Rule R31: which commands are idempotent: a repeated `SEED`, `SETSTATE` or `GETSTATE` leaves `STATE`
and `SEEDED` as one does; on every seeded instance a repeated `NEXT` moves on to another state. -/
def Obligations.Idempotency : Prop :=
  (∀ (i : Instr) (s t u : State), i ≠ .next → exec i s = .next t → exec i t = .next u →
    u.state = t.state ∧ u.seeded = t.seeded) ∧
  (∀ s : State, s.seeded = true → ∃ t u : State, exec .next s = .next t ∧ exec .next t = .next u ∧
    t.state = lcg s.state ∧ u.state = lcg (lcg s.state) ∧ u.state ≠ t.state)

/-! ## The ports and the sequencer -/

/-- Rule R50: the effect of every micro-operation and the sequence of every command. -/
def Obligations.MicroOperations : Prop :=
  (∀ e : Engine, runMicro .clr e = { e with core := { e.core with state := 0 } }) ∧
  (∀ e : Engine, runMicro .step e = { e with core := { e.core with state := lcg e.core.state } }) ∧
  (∀ (e : Engine) (s : U128), runMicro (.adds s) e =
    { e with core := { e.core with state := add128 e.core.state s } }) ∧
  (∀ (e : Engine) (v : U128), runMicro (.load v) e = { e with core := { e.core with state := v } }) ∧
  (∀ e : Engine, runMicro .extract e = { e with out64 := perm e.core.state }) ∧
  (∀ e : Engine, runMicro .read e = { e with out128 := e.core.state }) ∧
  (∀ e : Engine, runMicro .mark e = { e with core := { e.core with seeded := true } }) ∧
  (∀ (s : U128) (b : Bool), microOps (.seed s) b = [.clr, .step, .adds s, .step, .mark]) ∧
  microOps .next true = [.step, .extract] ∧ microOps .getstate true = [.read] ∧
  (∀ (v : U128) (b : Bool), microOps (.setstate v) b = [.load v, .mark])

/-- Rules R40, R50, R64: a command offered at idle ports, accepted, run micro-operation by
micro-operation and answered by the transfer of its response has exactly the effect of `exec` on the
instance, and leaves the ports idle. -/
def Obligations.HandshakeRunsOneCommand : Prop :=
  ∀ (p : Port) (w : CmdWord), p.phase = .idle → p.offer = none → p.engine.core.resetSeen = true →
    ∃ q : Port,
      portRun (commandEvents w (ticksOf (decode w) p.engine.core.seeded)) p = .next q ∧
      exec (decode w) p.engine.core = .next q.engine.core ∧ q.phase = .idle ∧ q.offer = none

/-- Rule R40: a command is accepted only while `cmd_ready`, it is the word offered at that moment, and
`cmd_ready` stays low until the response has been transferred (or a reset): at most one command is in
flight. -/
def Obligations.OneCommandInFlight : Prop :=
  (∀ p q : Port, portEvent .accept p = .next q → cmdReady p = true ∧ cmdReady q = false ∧
    ∃ w, p.offer = some w ∧ q.phase = .busy (decode w) (microOps (decode w) p.engine.core.seeded)) ∧
  (∀ (e : PortEvent) (p q : Port), portEvent e p = .next q → cmdReady p = false → cmdReady q = true →
    (e = .transfer ∧ rspValid p = true) ∨ e = .rst) ∧
  (∀ p q : Port, portEvent .transfer p = .next q → ∃ r, offeredResponse p = some r ∧
    q.engine.core.responses = p.engine.core.responses ++ [r])

/-- Rules R40 and R102: an offered response stays offered, unchanged, and the instance unchanged with
it, until it is transferred or a reset comes; a host that never takes it stalls the instance. -/
def Obligations.ResponseHeldUntilTransfer : Prop :=
  ∀ (e : PortEvent) (p q : Port) (r : Response), p.phase = .responding r → portEvent e p = .next q →
    e = .transfer ∨ e = .rst ∨ (q.phase = .responding r ∧ q.engine = p.engine ∧ cmdReady q = false)

/-- Rule R96: a reset discards the command in flight: it is never answered, and whatever part of it had
run leaves no trace: two ports that differ in nothing but the progress of a command are the same after
the reset. -/
def Obligations.ResetDiscardsCommandInFlight : Prop :=
  (∀ p q : Port, portEvent .rst p = .next q → q.phase = .idle ∧ q.engine.core.seeded = false ∧
    q.engine.core.responses = p.engine.core.responses) ∧
  (∀ (p : Port) (x : U128) (b : Bool) (o : U64) (o' : U128) (ph : Phase),
    portEvent .rst { p with
      engine := { core := { p.engine.core with state := x, seeded := b }, out64 := o, out128 := o' }
      phase := ph } = portEvent .rst p)

/-- Rule R64: the signal `seeded` rises only when the sequencer runs `MARK`. -/
def Obligations.SeededRisesOnlyAtMark : Prop :=
  ∀ (e : PortEvent) (p q : Port), portEvent e p = .next q →
    p.engine.core.seeded = false → q.engine.core.seeded = true →
    e = .tick ∧ ∃ (i : Instr) (ms : List MicroOp), p.phase = .busy i (.mark :: ms)

/-- Rule R102: an accepted command is offered its response after finitely many ticks, whatever the
operand, `STATE` and history; the number is at least 1 (rule R103) and, a tick being one
micro-operation (log entry 8) of the sequences of rule R50, at most 6. -/
def Obligations.EveryCommandIsAnswered : Prop :=
  (∀ (p : Port) (i : Instr) (ms : List MicroOp), p.phase = .busy i ms → ∃ (q : Port) (r : Response),
    portRun (List.replicate (ms.length + 1) .tick) p = .next q ∧ q.phase = .responding r) ∧
  (∀ (i : Instr) (b : Bool), 1 ≤ ticksOf i b ∧ ticksOf i b ≤ 6) ∧
  (∀ v v' : U128, ∀ b b' : Bool, ticksOf (.seed v) b = ticksOf (.seed v') b' ∧
    ticksOf (.setstate v) b = ticksOf (.setstate v') b')

/-- The model's choice (log entry 9) for what rule R99 leaves undefined: a host that changes or
withdraws an offered word stops the port machine with a fault; offering the same word is no change. -/
def Obligations.BrokenHandshakeFaults : Prop :=
  ∀ (p : Port) (v : CmdWord), p.offer = some v →
    portEvent .withdraw p = .fault .handshakeViolated ∧
    portEvent (.offer v) p = .next p ∧
    ∀ w, w ≠ v → portEvent (.offer w) p = .fault .handshakeViolated

/-! ## Several instances, several requesters, and the assembler -/

/-- Rule R104, last sentence, and R26: actions on different instances commute. -/
def Obligations.InstancesCommute : Prop :=
  ∀ (sys u v : System) (j k : Nat), j ≠ k → systemStep j sys = .next u → systemStep k u = .next v →
    ∃ u', systemStep k sys = .next u' ∧ systemStep j u' = .next v

/-- Rule R26: an action on an instance reads and writes that instance only: whenever the instance's own
step answers, the system answers with that instance replaced, and it answers in no other way. -/
def Obligations.InstanceActionIsItsOwn : Prop :=
  (∀ (sys t : System) (k : Nat), systemStep k sys = .next t →
    t.length = sys.length ∧ (∀ j, j ≠ k → t[j]? = sys[j]?) ∧
    ∃ s s' : State, sys[k]? = some s ∧ step s = .next s' ∧ t[k]? = some s') ∧
  (∀ (sys : System) (k : Nat) (s s' : State), sys[k]? = some s → step s = .next s' →
    systemStep k sys = .next (sys.set k s'))

/-- Rule R38: whatever the interleaving, the stream the port accepts holds each requester's actions in
that requester's order, none invented and none twice; and every interleaving, of the whole queues or of
as much of each as its requester has issued, is the merge for some list of choices. -/
def Obligations.MergeKeepsEachRequestersOrder : Prop :=
  (∀ (choices : List Nat) (queues : List (List HostAction)) (k : Nat),
    ((merge choices queues).filter (fun p => p.1 == k)).map Prod.snd <+: (queues[k]?).getD []) ∧
  (∀ (queues : List (List HostAction)) (m : List (Nat × HostAction)),
    (∀ k, (m.filter (fun p => p.1 == k)).map Prod.snd <+: (queues[k]?).getD []) →
    ∃ choices, merge choices queues = m ∧ sharedProgram choices queues = m.map Prod.snd)

/-- Rules R47 and R48: a literal in range assembles to its command word, one out of range is rejected
and not wrapped; `NEW` and `RESEED` are `SEED`; `NEXT xN` is `NEXT` written N times, N positive;
`RESET` is the host action. -/
def Obligations.AssemblerLines : Prop :=
  (∀ n : Nat, n < 2 ^ 128 →
    assembleLine (.seed n) = some [.cmd (BitVec.ofNat 130 (1 * 2 ^ 128 + n))] ∧
    assembleLine (.setstate n) = some [.cmd (BitVec.ofNat 130 (3 * 2 ^ 128 + n))]) ∧
  (∀ n : Nat, 2 ^ 128 ≤ n → assembleLine (.seed n) = none ∧ assembleLine (.setstate n) = none) ∧
  (∀ n : Nat, assembleLine (.new n) = assembleLine (.seed n) ∧
    assembleLine (.reseed n) = assembleLine (.seed n)) ∧
  (∀ n : Nat, 0 < n → assembleLine (.nextTimes n) =
    assemble (List.replicate n .next)) ∧
  assembleLine (.nextTimes 0) = none ∧
  assembleLine .next = some [.cmd 0] ∧ assembleLine .getstate = some [.cmd (BitVec.ofNat 130 (2 * 2 ^ 128))] ∧
  assembleLine .reset = some [.reset]
end

