-- ==== Sys2Proof/Laws/Arith.lean ====
section
/-! SUPPORT. The arithmetic units and slices as natural numbers. -/

namespace Sys2Proof.Machine

theorem multiplier_toNat : Config.multiplier.toNat = 0x2360ED051FC65DA44385DF649FCCF645 := by decide
theorem increment_toNat : Config.increment.toNat = 0x5851F42D4C957F2D14057B7EF767814F := by decide

/-- The step over the named constants, reduced once at the end. -/
theorem lcg_toNat (x : U128) :
    (lcg x).toNat = (x.toNat * Config.multiplier.toNat + Config.increment.toNat) % 2 ^ 128 := by
  rw [lcg, add128, mul128, BitVec.toNat_add, BitVec.toNat_mul, Nat.add_mod_mod, Nat.add_comm, Nat.mul_comm]

theorem highWord_toNat (x : U128) : (highWord x).toNat = x.toNat / 2 ^ 64 := by
  have := x.isLt
  rw [highWord, BitVec.extractLsb'_toNat, Nat.shiftRight_eq_div_pow]; omega

theorem lowWord_toNat (x : U128) : (lowWord x).toNat = x.toNat % 2 ^ 64 := by
  rw [lowWord, BitVec.extractLsb'_toNat, Nat.shiftRight_zero]

theorem zext128_toNat (v : U64) : (zext128 v).toNat = v.toNat := by
  have := v.isLt
  rw [zext128, BitVec.toNat_setWidth]; omega

end Sys2Proof.Machine
end

