-- ==== Sys2Proof/Laws/State.lean ====
section
/-! SUPPORT. One lemma per field per update of the state, so that no later proof unfolds a record
update. -/

namespace Sys2Proof.Machine

section WriteState
variable (v : U128) (s : State)

@[simp] theorem writeState_state : (writeState v s).state = v := rfl
@[simp] theorem writeState_seeded : (writeState v s).seeded = s.seeded := rfl
@[simp] theorem writeState_resetSeen : (writeState v s).resetSeen = s.resetSeen := rfl
@[simp] theorem writeState_program : (writeState v s).program = s.program := rfl
@[simp] theorem writeState_index : (writeState v s).index = s.index := rfl
@[simp] theorem writeState_responses : (writeState v s).responses = s.responses := rfl
@[simp] theorem writeState_freeCount : (writeState v s).freeCount = s.freeCount := rfl
end WriteState

section Mark
variable (s : State)

@[simp] theorem mark_state : (mark s).state = s.state := rfl
@[simp] theorem mark_seeded : (mark s).seeded = true := rfl
@[simp] theorem mark_resetSeen : (mark s).resetSeen = s.resetSeen := rfl
@[simp] theorem mark_program : (mark s).program = s.program := rfl
@[simp] theorem mark_index : (mark s).index = s.index := rfl
@[simp] theorem mark_responses : (mark s).responses = s.responses := rfl
@[simp] theorem mark_freeCount : (mark s).freeCount = s.freeCount := rfl
end Mark

section GiveResponse
variable (r : Response) (s : State)

@[simp] theorem giveResponse_state : (giveResponse r s).state = s.state := rfl
@[simp] theorem giveResponse_seeded : (giveResponse r s).seeded = s.seeded := rfl
@[simp] theorem giveResponse_resetSeen : (giveResponse r s).resetSeen = s.resetSeen := rfl
@[simp] theorem giveResponse_program : (giveResponse r s).program = s.program := rfl
@[simp] theorem giveResponse_index : (giveResponse r s).index = s.index := rfl
@[simp] theorem giveResponse_responses : (giveResponse r s).responses = s.responses ++ [r] := rfl
@[simp] theorem giveResponse_freeCount : (giveResponse r s).freeCount = s.freeCount := rfl
end GiveResponse

section Advance
variable (s : State)

@[simp] theorem advance_state : (advance s).state = s.state := rfl
@[simp] theorem advance_seeded : (advance s).seeded = s.seeded := rfl
@[simp] theorem advance_resetSeen : (advance s).resetSeen = s.resetSeen := rfl
@[simp] theorem advance_program : (advance s).program = s.program := rfl
@[simp] theorem advance_index : (advance s).index = s.index + 1 := rfl
@[simp] theorem advance_responses : (advance s).responses = s.responses := rfl
@[simp] theorem advance_freeCount : (advance s).freeCount = s.freeCount := rfl
end Advance

section ApplyReset
variable (s : State)

@[simp] theorem applyReset_seeded : (applyReset s).seeded = false := rfl
@[simp] theorem applyReset_resetSeen : (applyReset s).resetSeen = true := rfl
@[simp] theorem applyReset_program : (applyReset s).program = s.program := rfl
@[simp] theorem applyReset_index : (applyReset s).index = s.index := rfl
@[simp] theorem applyReset_responses : (applyReset s).responses = s.responses := rfl
@[simp] theorem applyReset_freeCount : (applyReset s).freeCount = s.freeCount + 1 := rfl
end ApplyReset

section StepState
variable (s : State)

@[simp] theorem stepState_state : (stepState s).state = lcg s.state := rfl
@[simp] theorem stepState_seeded : (stepState s).seeded = s.seeded := rfl
@[simp] theorem stepState_resetSeen : (stepState s).resetSeen = s.resetSeen := rfl
@[simp] theorem stepState_program : (stepState s).program = s.program := rfl
@[simp] theorem stepState_index : (stepState s).index = s.index := rfl
@[simp] theorem stepState_responses : (stepState s).responses = s.responses := rfl
@[simp] theorem stepState_freeCount : (stepState s).freeCount = s.freeCount := rfl
end StepState

@[simp] theorem readState_eq (s : State) : readState s = s.state := rfl
@[simp] theorem writeState_writeState (a b : U128) (s : State) :
    writeState a (writeState b s) = writeState a s := rfl
theorem stepState_eq (s : State) : stepState s = writeState (lcg s.state) s := rfl
@[simp] theorem isSeeded_eq (s : State) : isSeeded s = s.seeded := rfl
@[simp] theorem okResponse_err (d : U128) : (okResponse d).err = 0 := rfl
@[simp] theorem okResponse_data (d : U128) : (okResponse d).data = d := rfl
@[simp] theorem errResponse_err (c : Cause) : (errResponse c).err = 1 := by cases c; rfl
@[simp] theorem errResponse_data (c : Cause) : (errResponse c).data = 0 := rfl

end Sys2Proof.Machine
end

