-- ==== Sys2Proof/Laws/Ops.lean ====
section
/-! SUPPORT. For each shared operation, once, everything it can do: the provers cite these instead of
unfolding it. -/

namespace Sys2Proof.Machine

theorem writeState_eq (v : U128) (s : State) : writeState v s = { s with state := v } := rfl

theorem respond_eq (d : U128) (s : State) :
    respond d s = .next { s with responses := s.responses ++ [{ err := 0, data := d }] } := rfl

theorem raise_eq (c : Cause) (s : State) :
    raise c s = .next { s with responses := s.responses ++ [{ err := 1, data := 0 }] } := by
  cases c; rfl

/-- Storing a value and marking the instance seeded: the effect of `SEED` and `SETSTATE`. -/
theorem respond_mark_writeState (d v : U128) (s : State) :
    respond d (mark (writeState v s)) = .next { s with
      state := v, seeded := true, responses := s.responses ++ [{ err := 0, data := d }] } := rfl

/-- The effect of a draw whose new state is `n`. -/
theorem drawFrom_eq (n : U128) (s : State) :
    drawFrom n s = .next { s with
      state := n, responses := s.responses ++ [{ err := 0, data := (perm n).setWidth 128 }] } := rfl

/-- `respond` answers, and only adds its response. -/
theorem respond_eq_next {d : U128} {s t : State} :
    respond d s = .next t ↔ t = giveResponse (okResponse d) s := by
  simp only [respond, Host.Outcome.next.injEq]; exact eq_comm

/-- Taking an exception answers, and only adds its response. -/
theorem raise_eq_next {c : Cause} {s t : State} :
    raise c s = .next t ↔ t = giveResponse (errResponse c) s := by
  simp only [raise, Host.Outcome.next.injEq]; exact eq_comm

theorem whenSeeded_of_seeded {s : State} (h : s.seeded = true) (k : Result) :
    whenSeeded s k = k := by simp [whenSeeded, h]

theorem whenSeeded_of_unseeded {s : State} (h : s.seeded = false) (k : Result) :
    whenSeeded s k = raise .unseeded s := by simp [whenSeeded, h]

/-- What the check can do. -/
theorem whenSeeded_cases (s : State) (k : Result) :
    (s.seeded = true ∧ whenSeeded s k = k) ∨
      (s.seeded = false ∧ whenSeeded s k = raise .unseeded s) := by
  cases h : s.seeded
  · exact .inr ⟨rfl, whenSeeded_of_unseeded h k⟩
  · exact .inl ⟨rfl, whenSeeded_of_seeded h k⟩

theorem afterFirstReset_of_seen {s : State} (h : s.resetSeen = true) (k : Result) :
    afterFirstReset s k = k := by simp [afterFirstReset, h]

theorem afterFirstReset_of_not_seen {s : State} (h : s.resetSeen = false) (k : Result) :
    afterFirstReset s k = .refused .beforeFirstReset := by simp [afterFirstReset, h]

/-- The word placed is the next action. -/
theorem fetch_placeCommand (w : CmdWord) (s : State) :
    fetch (placeCommand w s) = some (.cmd w) := by
  simp [fetch, placeCommand]

/-- What a step that answers can be. -/
theorem step_cases {s t : State} (h : step s = .next t) :
    (fetch s = none ∧ t = s) ∨
      (fetch s = some .reset ∧ t = applyReset (advance s)) ∨
      (∃ w, fetch s = some (.cmd w) ∧ s.resetSeen = true ∧ exec (decode w) (advance s) = .next t) := by
  unfold step at h
  split at h
  · exact .inl ⟨by assumption, by simpa [idle] using h.symm⟩
  · exact .inr (.inl ⟨by assumption, by simpa [hostReset] using h.symm⟩)
  · rename_i w hf
    cases hr : s.resetSeen
    · rw [afterFirstReset_of_not_seen hr] at h; cases h
    · exact .inr (.inr ⟨w, hf, rfl, by rwa [afterFirstReset_of_seen hr] at h⟩)

end Sys2Proof.Machine
end

