-- ==== Sys2Proof/Laws/PerInstr.lean ====
section
/-! SUPPORT. Statements for all commands, one lemma per constructor: facts about the command as
syntax. -/

namespace Sys2Proof

/-- No command is ill-formed (`30_encoding.md` rule R45). -/
theorem wellFormed_all (i : Instr) : WellFormed i := by
  cases i with
  | next => decide
  | seed s => exact decide_eq_true s.isLt
  | getstate => decide
  | setstate v => exact decide_eq_true v.isLt

end Sys2Proof

/-- The word of a command selects the command's own row of the opcode map: `w and mask = match`
(`30_encoding.md` rule R43). -/
def Sys2Proof.Laws.TableRow.Statement (i : Sys2Proof.Instr) : Prop :=
  Sys2Proof.encode i &&& Sys2Proof.opcodeMask = Sys2Proof.opcodeMatch i

/-- The operand field of a command's word is the command's operand, 0 where it is ignored
(`30_encoding.md` rules R41, R45). -/
def Sys2Proof.Laws.OperandField.Statement (i : Sys2Proof.Instr) : Prop :=
  (Sys2Proof.operandField (Sys2Proof.encode i)).toNat = Sys2Proof.operandValue i

namespace Sys2Proof.Laws

/-- A word made of `op` and an operand, as bits. -/
theorem ofNat_op_operand (op : Nat) (v : U128) :
    BitVec.ofNat 130 (op * 2 ^ 128 + v.toNat) = BitVec.ofNat 2 op ++ v := by
  apply BitVec.eq_of_toNat_eq
  have h := v.isLt
  simp only [BitVec.toNat_ofNat, BitVec.toNat_append]
  rw [← Nat.shiftLeft_add_eq_or_of_lt h, Nat.shiftLeft_eq]
  omega

theorem append_and_mask (a : BitVec 2) (v : U128) :
    (a ++ v) &&& opcodeMask = a ++ (0 : U128) := by
  have h : opcodeMask = (3#2 ++ (0 : U128) : CmdWord) := by decide
  rw [h, BitVec.and_append]
  have h3 : a &&& 3#2 = a := BitVec.and_allOnes (x := a)
  rw [h3]; simp

theorem operandField_append (a : BitVec 2) (v : U128) : operandField (a ++ v) = v := by
  apply BitVec.eq_of_getLsbD_eq
  intro i hi
  simp only [operandField, BitVec.getLsbD_extractLsb', BitVec.getLsbD_append, Nat.zero_add, hi,
    decide_true, Bool.true_and, if_true]

end Sys2Proof.Laws

namespace Sys2Proof.Laws.TableRow

theorem next : Statement .next := by unfold Statement; decide
theorem seed (s : U128) : Statement (.seed s) := by
  simp only [Statement, encode, encodeNat, ofNat_op_operand, append_and_mask, opcodeMatch]; decide
theorem getstate : Statement .getstate := by unfold Statement; decide
theorem setstate (v : U128) : Statement (.setstate v) := by
  simp only [Statement, encode, encodeNat, ofNat_op_operand, append_and_mask, opcodeMatch]; decide

end Sys2Proof.Laws.TableRow

namespace Sys2Proof.Laws.OperandField

theorem next : Statement .next := by unfold Statement; decide
theorem seed (s : U128) : Statement (.seed s) := by
  simp only [Statement, encode, encodeNat, ofNat_op_operand, operandField_append, operandValue]
theorem getstate : Statement .getstate := by unfold Statement; decide
theorem setstate (v : U128) : Statement (.setstate v) := by
  simp only [Statement, encode, encodeNat, ofNat_op_operand, operandField_append, operandValue]

end Sys2Proof.Laws.OperandField
end

