-- ==== Sys2Proof/Tests/Slice0.lean ====
section
/-! SUPPORT. Small tests, their expected values from spec/ (`95_test_vectors.md` unless another file is
named), and for every statement with hypotheses a witness that meets them. -/

namespace Sys2Proof.Tests

open Sys2Proof Sys2Proof.Machine

/-- An instance right after `SEED 1234` (section 2.4). -/
def seeded1234 : State := { State.reset with
  state := 0xD1A8417CC371D5C6276E5D26827E5E34#128, seeded := true }

/-- The state of a result, for a test to look at. -/
def stateOf : Result → State
  | .next t => t
  | .fault _ => State.reset
  | .refused _ => State.reset

/-! ## Well-formedness: an ill-formed term for each check -/

/-- Rule R47: a literal outside the range is rejected, not wrapped. -/
theorem test_literal_out_of_range : literalFits (2 ^ 128) = false ∧ literalFits (2 ^ 128 - 1) = true := by
  decide

/-- Rule R48: the count of `NEXT xN` is positive. -/
theorem test_repeat_zero : repeatCountOk 0 = false ∧ repeatCountOk 1 = true := by decide

/-! ## Decoding, words of section 2.7 written out -/

theorem test_decode_next : decode 0x0FFFFFFFFFFFFFFFFFFFFFFFFFFFFFFFF#130 = .next := by decide

theorem test_decode_seed :
    decode 0x1000000000000000000000000000010E1#130 = .seed 4321 := by decide

theorem test_decode_getstate : decode 0x2000000000000000000000000DEADBEEF#130 = .getstate := by decide

theorem test_decode_setstate :
    decode 0x3FFFFFFFFFFFFFFFFFFFFFFFFFFFFFFFF#130 =
      .setstate 0xFFFFFFFFFFFFFFFFFFFFFFFFFFFFFFFF#128 := by decide

/-- The words of P1 and P3. -/
theorem test_encode : encode (.seed 1234) = 0x1000000000000000000000000000004D2#130 ∧
    encode (.setstate 0x15E8F17F807A3FD1C738143E57A1F635#128) =
      0x315E8F17F807A3FD1C738143E57A1F635#130 := by decide

/-- A number of 131 bits is no command word (log entry 7). -/
theorem test_table_word : decodeTableWord 136 (2 ^ 128 + 1234) = some (.seed 1234) ∧
    decodeTableWord 136 (2 ^ 130) = none := by decide

/-! ## Arithmetic -/

/-- Section 2.1: both words non-zero, and a carry from the low word into the high word. -/
theorem test_lcg : lcg 0x00000000000000010000000000000001#128 = 0xBF38C0970C28D316578B5AE397347794#128 ∧
    lcg 0xE51F99DCDFD0F9A39CF79D3155E1CB98#128 = 0x26114BDA7E9A9E1C05FCDF13BC077147#128 := by decide

/-- Section 2.1, double-word form, the row with `carry = 1`. -/
theorem test_double_word :
    madP0 0xE51F99DCDFD0F9A39CF79D3155E1CB98#128 = 0x2966E3C1F8BE8E9FF1F76394C49FEFF8#128 ∧
    madCross 0xE51F99DCDFD0F9A39CF79D3155E1CB98#128 = 0xA45873EB3946904F#64 ∧
    madPh 0xE51F99DCDFD0F9A39CF79D3155E1CB98#128 = 0xCDBF57AD32051EEE#64 ∧
    madPl 0xE51F99DCDFD0F9A39CF79D3155E1CB98#128 = 0xF1F76394C49FEFF8#64 ∧
    madCarry 0xE51F99DCDFD0F9A39CF79D3155E1CB98#128 = 1 ∧
    madHi 0xE51F99DCDFD0F9A39CF79D3155E1CB98#128 = 0x26114BDA7E9A9E1C#64 ∧
    madLo 0xE51F99DCDFD0F9A39CF79D3155E1CB98#128 = 0x05FCDF13BC077147#64 := by decide

/-- `10_state.md` rule R17: the two forms of each constant. -/
theorem test_constants :
    Config.multiplier.toNat = 2549297995355413924 * 2 ^ 64 + 4865540595714422341 ∧
    Config.increment.toNat = 6364136223846793005 * 2 ^ 64 + 1442695040888963407 := by decide

/-- Section 2.2: the sum in the middle wraps. -/
theorem test_seedfn : seedfn 0xFFFFFFFFFFFFFFFFFFFFFFFFFFFFFFFF#128 = 0x2510D1C4797C16546899AAB798B64F55#128 ∧
    seedfn 4321 = 0x6F726246EC75059062BF2B897B0C083F#128 := by decide

/-- Section 2.3: direction of rotation, and no rotation. -/
theorem test_rotr64 : rotr64 0x0123456789ABCDEF#64 4 = 0xF0123456789ABCDE#64 ∧
    rotr64 0x0123456789ABCDEF#64 0 = 0x0123456789ABCDEF#64 ∧
    rotr64 0x0123456789ABCDEF#64 63 = 0x02468ACF13579BDE#64 := by decide

/-- Section 2.4, seed 4321, draw 6: `rot = 62`. -/
theorem test_perm : perm 0xF9CAA12F434C70A8BDB67E617DA4F355#128 = 0x11F37D38FBA20FF5#64 := by decide

/-! ## One command each -/

/-- Section 2.4, seed 1234, draw 1. -/
theorem test_next : (stateOf (exec .next seeded1234)).state = 0xADAB4DCE76E4899C827429CAEF6CDD53#128 ∧
    (stateOf (exec .next seeded1234)).responses = [{ err := 0, data := 9264802780032662508 }] := by decide

/-- Section 2.6: an unseeded draw. -/
theorem test_next_unseeded :
    (stateOf (exec .next State.reset)).responses.map responseWord =
      [0x100000000000000000000000000000000#129] ∧
    (stateOf (exec .next State.reset)).seeded = false := by decide

/-- P2, action 0: reseeding a seeded instance. -/
theorem test_seed : (stateOf (exec (.seed 4321) seeded1234)).state =
      0x6F726246EC75059062BF2B897B0C083F#128 ∧
    (stateOf (exec (.seed 4321) seeded1234)).responses.map responseWord = [0] := by decide

/-- Section 2.5. -/
theorem test_getstate :
    (stateOf (exec .getstate seeded1234)).responses.map responseWord =
      [0x0D1A8417CC371D5C6276E5D26827E5E34#129] ∧
    (stateOf (exec .getstate seeded1234)).state = seeded1234.state := by decide

/-- Section 2.6. -/
theorem test_getstate_unseeded :
    (stateOf (exec .getstate State.reset)).responses = [{ err := 1, data := 0 }] := by decide

/-- Section 2.5: `SETSTATE` on an unseeded instance makes it seeded. -/
theorem test_setstate :
    (stateOf (exec (.setstate 0x15E8F17F807A3FD1C738143E57A1F635#128) State.reset)).state =
      0x15E8F17F807A3FD1C738143E57A1F635#128 ∧
    (stateOf (exec (.setstate 0x15E8F17F807A3FD1C738143E57A1F635#128) State.reset)).seeded = true := by
  decide

/-! ## The step, reset and power-up -/

/-- The first step after reset runs the word placed for it (P4, action 3). -/
theorem test_step_from_reset :
    (stateOf (step (State.reset.withFetchWord 136 (2 ^ 128)))).state =
      0x4871BEC9994273F8AC1F8A1C3883459A#128 := by decide

/-- P4, action 6: `RESET` gives no response and clears the flag. -/
theorem test_step_reset :
    (stateOf (step (loadProgram [.reset] seeded1234))).seeded = false ∧
    (stateOf (step (loadProgram [.reset] seeded1234))).responses = [] ∧
    (stateOf (step (loadProgram [.reset] seeded1234))).index = 1 := by decide

/-- Rule R98: a command before the first `Reset` is refused, a `Reset` is not. -/
theorem test_power_up : step (powerUp 0 true [.cmd 0]) = .refused .beforeFirstReset ∧
    (stateOf (step (powerUp 0 true [.reset]))).resetSeen = true := ⟨rfl, rfl⟩

/-! ## Ports, instances, requesters, assembler -/

/-- Rule R96: a reset while `SEED 0` has run two of its micro-operations: no response, not seeded. -/
theorem test_reset_in_mid_command : ∃ q,
    portRun [.offer 0x100000000000000000000000000000000#130, .accept, .tick, .tick, .rst] portAtReset =
      .next q ∧ q.engine.core.seeded = false ∧ q.engine.core.responses = [] ∧ q.phase = .idle :=
  ⟨_, rfl, rfl, rfl, rfl⟩

/-- Rule R50: the micro-sequence of `NEXT` (section 2.4, seed 1234, draw 1). -/
theorem test_micro_next :
    (runMicros (microOps .next true) { core := seeded1234, out64 := 0, out128 := 0 }).out64 =
      0x8093310A99E5FBEC#64 := by decide

/-- Rule R26: an action on instance 1 of three; instance 3 does not exist. -/
theorem test_system : (∃ sys, systemStep 1 (systemAtReset 3) = .next sys ∧ sys.length = 3) ∧
    systemStep 3 (systemAtReset 3) = .refused .noSuchInstance := ⟨⟨_, rfl, rfl⟩, rfl⟩

/-- Rule R38: two merges of the same two requesters. -/
theorem test_merge :
    sharedProgram [0, 1, 0] [[.cmd 0, .cmd 0], [.cmd 1]] = [.cmd 0, .cmd 1, .cmd 0] ∧
    sharedProgram [1, 0, 0] [[.cmd 0, .cmd 0], [.cmd 1]] = [.cmd 1, .cmd 0, .cmd 0] ∧
    receivedBy 1 (merge [0, 1, 0] [[.cmd 0, .cmd 0], [.cmd 1]])
      [okResponse 5, okResponse 6, okResponse 7] = [okResponse 6] := by decide

/-- Rule R47: `SEED 0x4D2 ; x` and `SEED 1234` are the same line; `seed 1` is none. -/
theorem test_parse :
    parseLine ['S', 'E', 'E', 'D', ' ', '0', 'x', '4', 'D', '2', ' ', ';', 'x'] = some (.seed 1234) ∧
    parseLine ['S', 'E', 'E', 'D', ' ', '1', '2', '3', '4'] = some (.seed 1234) ∧
    parseLine ['s', 'e', 'e', 'd', ' ', '1'] = none := by decide

/-- Rules R47, R48: `NEXT x3`, `NEW 0`, and a literal that is out of range. -/
theorem test_assemble :
    assembleText [['N', 'E', 'X', 'T', ' ', 'x', '3'], ['N', 'E', 'W', ' ', '0'], ['R', 'E', 'S', 'E', 'T']] =
      some [.cmd 0, .cmd 0, .cmd 0, .cmd 0x100000000000000000000000000000000#130, .reset] ∧
    assembleLine (.setstate (2 ^ 128)) = none := by decide

/-! ## Witnesses: the hypotheses of every statement can be met -/

theorem witness_EncodeDecodeAndIgnoredBits :
    opField (0x0000000000000000000000000DEADBEEF#130) = opField (0#130) ∧
    (0x0000000000000000000000000DEADBEEF#130).getLsbD 128 = false := by decide

theorem witness_CommandWordFormat :
    opField 0x0FFFFFFFFFFFFFFFFFFFFFFFFFFFFFFFF#130 = 0b00 ∧
    opField 0x1FFFFFFFFFFFFFFFFFFFFFFFFFFFFFFFF#130 = 0b01 ∧
    opField 0x200000000000000000000000000000000#130 = 0b10 ∧
    opField 0x300000000000000000000000000000000#130 = 0b11 := by decide

theorem witness_OpcodeMapSelectsOneRow :
    0x3FFFFFFFFFFFFFFFFFFFFFFFFFFFFFFFF#130 &&& opcodeMask = opcodeMatch (.setstate 7) := by decide

theorem witness_StepLowBitsFromLowBits :
    (∀ i, i ≤ 127 → (5#128).getLsbD i = (5#128).getLsbD i) ∧
    (∀ i, i ≤ 0 → (2#128).getLsbD i = (4#128).getLsbD i) ∧ (2#128) ≠ 4#128 := by
  refine ⟨fun _ _ => rfl, fun i h => ?_, by decide⟩
  rw [Nat.le_zero.1 h]; decide

theorem witness_RotateRightByBitIndex : (63 : Nat) < 64 ∧ 1 ≤ (63 : U6).toNat := by decide

theorem witness_OutputPermutation : (0 : Nat) < 64 ∧ (63 : Nat) < 64 := by decide

theorem witness_SeedCommand : ∃ t u, exec (.seed 0) State.reset = .next t ∧ exec (.seed 0) t = .next u :=
  ⟨_, _, rfl, rfl⟩

theorem witness_NextCommand : seeded1234.seeded = true ∧ State.reset.seeded = false ∧
    opField 0x0FFFFFFFFFFFFFFFFFFFFFFFFFFFFFFFF#130 = 0b00 ∧
    highWord 0x80000000000000018000000000000001#128 = lowWord 0x80000000000000018000000000000001#128 ∧
    rotAmount 0x03FFFFFFFFFFFFFFFFFFFFFFFFFFFFFF#128 = 0 ∧
    rotAmount 0xFC000000000000000000000000000001#128 = 63 := by decide

theorem witness_GetstateCommand : seeded1234.seeded = true ∧ State.reset.seeded = false ∧
    opField 0x2FFFFFFFFFFFFFFFFFFFFFFFFFFFFFFFF#130 = 0b10 := by decide

theorem witness_CommandFrame : readsState .next = true ∧ readsState .getstate = true ∧
    State.reset.seeded = false ∧ setsSeeded .next = false ∧ setsSeeded .getstate = false := by decide

theorem witness_UnseededIsAnswered : readsState .next = true ∧ readsState .getstate = true ∧
    State.reset.seeded = false := by decide

theorem witness_OnlyExceptionIsUnseeded :
    (∃ t r, exec .next State.reset = .next t ∧ t.responses = State.reset.responses ++ [r] ∧ r.err = 1) ∧
    (∃ t r, exec (.seed 1) State.reset = .next t ∧ t.responses = State.reset.responses ++ [r] ∧
      r.err = 0) :=
  ⟨⟨_, _, rfl, rfl, rfl⟩, ⟨_, _, rfl, rfl, rfl⟩⟩

theorem witness_SeededInstanceNeverFails : seeded1234.seeded = true := by decide

theorem witness_UnseededIsNotSticky : State.reset.seeded = false ∧
    (∀ i ∈ [Instr.next, Instr.getstate], readsState i = true) ∧
    setsSeeded (.seed 0) = true ∧ setsSeeded (.setstate 0) = true := by decide

theorem witness_SeededFlag :
    (∃ t, exec (.setstate 0) State.reset = .next t) ∧
    (∃ t, fetch (loadProgram [.reset] seeded1234) = some .reset ∧
      step (loadProgram [.reset] seeded1234) = .next t ∧ seeded1234.seeded = true ∧ t.seeded = false) ∧
    (readsState .getstate = true ∧ State.reset.seeded = false) :=
  ⟨⟨_, rfl⟩, ⟨_, rfl, rfl, rfl, rfl⟩, rfl, rfl⟩

theorem witness_StepRunsDecodedCommand :
    fetch (loadProgram [.cmd 0] State.reset) = some (.cmd 0) ∧
    (loadProgram [.cmd 0] State.reset).resetSeen = true := by decide

theorem witness_ResetAction : fetch (loadProgram [.reset] State.reset) = some .reset ∧
    (∃ q, portEvent .rst { portAtReset with phase := .busy .next [.step] } = .next q) := ⟨rfl, _, rfl⟩

theorem witness_ExhaustedProgramIdles : State.reset.program.length ≤ State.reset.index ∧
    ({ State.reset with index := 3 } : State).program.length ≤ 3 := by decide

theorem witness_PlacedWordRunsNext : decodeTableWord 130 (2 ^ 130 - 1) =
    some (.setstate 0xFFFFFFFFFFFFFFFFFFFFFFFFFFFFFFFF#128) := by decide

theorem witness_StepKeepsRunInvariant : RunInv (loadProgram [.reset, .cmd 0] State.reset) ∧
    ∃ t, step (loadProgram [.reset, .cmd 0] State.reset) = .next t :=
  ⟨⟨Nat.zero_le _, rfl, rfl, fun _ hr => nomatch hr⟩,
    applyReset (advance (loadProgram [.reset, .cmd 0] State.reset)), rfl⟩

theorem witness_StepRefinesTransaction :
    (fetch (loadProgram [.cmd 0] State.reset) = some (.cmd 0) ∧ State.reset.resetSeen = true) ∧
    fetch (powerUp 0 true [.reset]) = some .reset := by decide

theorem witness_RunIsFoldOfActions : (loadProgram [.reset, .cmd 0] seeded1234).resetSeen = true ∧
    ((loadProgram [.reset, .cmd 0] seeded1234).program.drop 0).length ≤ 2 := by decide

theorem witness_UnseededStateNeverObserved :
    State.reset.seeded = false ∧ State.reset.resetSeen = true := by decide

theorem witness_ResponsesDependOnBlockOnly :
    (loadProgram [.cmd 0] seeded1234).state = seeded1234.state ∧
    (loadProgram [.cmd 0] seeded1234).seeded = seeded1234.seeded ∧
    loadProgram [.cmd 0] seeded1234 ≠ seeded1234 := by decide

theorem witness_StreamResumption : seeded1234.seeded = true := by decide

theorem witness_OutputIsFromStateLeftBehind : seeded1234.seeded = true := by decide

theorem witness_Idempotency :
    (∃ t u, Instr.seed 1 ≠ .next ∧ exec (.seed 1) State.reset = .next t ∧ exec (.seed 1) t = .next u) ∧
    (∃ t u, Instr.getstate ≠ .next ∧ exec .getstate State.reset = .next t ∧ exec .getstate t = .next u) ∧
    (∃ t u, seeded1234.seeded = true ∧ exec .next seeded1234 = .next t ∧ exec .next t = .next u) :=
  ⟨⟨_, _, by decide, rfl, rfl⟩, ⟨_, _, by decide, rfl, rfl⟩, ⟨_, _, rfl, rfl, rfl⟩⟩

theorem witness_HandshakeRunsOneCommand : portAtReset.phase = .idle ∧ portAtReset.offer = none ∧
    portAtReset.engine.core.resetSeen = true := by decide

theorem witness_OneCommandInFlight :
    (∃ q, portEvent .accept { portAtReset with offer := some 0 } = .next q) ∧
    (∃ q, portEvent .transfer { portAtReset with phase := .responding (okResponse 1) } = .next q ∧
      cmdReady { portAtReset with phase := .responding (okResponse 1) } = false ∧ cmdReady q = true) :=
  ⟨⟨_, rfl⟩, ⟨_, rfl, rfl, rfl⟩⟩

theorem witness_ResponseHeldUntilTransfer :
    ∃ q, portEvent .tick { portAtReset with phase := .responding (okResponse 1) } = .next q := ⟨_, rfl⟩

theorem witness_ResetDiscardsCommandInFlight :
    ∃ q, portEvent .rst { portAtReset with phase := .busy (.seed 1) [.step, .mark] } = .next q := ⟨_, rfl⟩

theorem witness_SeededRisesOnlyAtMark : ∃ q,
    portEvent .tick { portAtReset with phase := .busy (.seed 1) [.mark] } = .next q ∧
    portAtReset.engine.core.seeded = false ∧ q.engine.core.seeded = true := ⟨_, rfl, rfl, rfl⟩

theorem witness_EveryCommandIsAnswered :
    ({ portAtReset with phase := .busy .next [] } : Port).phase = .busy .next [] ∧
    ({ portAtReset with phase := .busy (.setstate 1) [.load 1, .mark] } : Port).phase =
      .busy (.setstate 1) [.load 1, .mark] := ⟨rfl, rfl⟩

theorem witness_BrokenHandshakeFaults :
    ({ portAtReset with offer := some 0 } : Port).offer = some 0 ∧ (1 : CmdWord) ≠ 0 := by decide

theorem witness_InstancesCommute : ∃ u v, (0 : Nat) ≠ 1 ∧
    systemStep 0 [loadProgram [.cmd 0] State.reset, loadProgram [.reset] State.reset] = .next u ∧
    systemStep 1 u = .next v := ⟨_, _, by decide, rfl, rfl⟩

theorem witness_InstanceActionIsItsOwn : (∃ t, systemStep 0 (systemAtReset 2) = .next t ∧ (1 : Nat) ≠ 0) ∧
    ∃ s', (systemAtReset 2)[1]? = some State.reset ∧ step State.reset = .next s' :=
  ⟨⟨_, rfl, by decide⟩, _, rfl, rfl⟩

/-- Rule R38: an interleaving of the whole of two queues, and one of a part of the first. -/
theorem witness_MergeKeepsEachRequestersOrder :
    (∀ k, (([(1, .cmd 1), (0, .cmd 0)] : List (Nat × HostAction)).filter (fun p => p.1 == k)).map Prod.snd
      <+: ([[.cmd 0], [.cmd 1]][k]?).getD []) ∧
    (∀ k, (([(0, .reset)] : List (Nat × HostAction)).filter (fun p => p.1 == k)).map Prod.snd
      <+: ([[.reset, .reset], [.cmd 1]][k]?).getD []) := by
  constructor <;> intro k <;> rcases k with _ | _ | k <;> simp

theorem witness_AssemblerLines : 2 ^ 128 - 1 < 2 ^ 128 ∧ 2 ^ 128 ≤ 2 ^ 128 ∧ 0 < 1 := by norm_num

end Sys2Proof.Tests
end

/-! The four commands as one update of the block: what `exec` does is `transactCommand` of rule R104 on
the block state, written back, and one response. -/

namespace Sys2Proof.Machine

/-- The block state `b` put back into a state: `none` clears `SEEDED` and leaves `STATE` as it is
(`10_state.md` rule R19). The inverse of `blockOf`. -/
def writeBlock (b : Option U128) (s : State) : State :=
  { s with state := b.getD s.state, seeded := b.isSome }

section WriteBlock
variable (b : Option U128) (s : State)

@[simp] theorem writeBlock_state : (writeBlock b s).state = b.getD s.state := rfl
@[simp] theorem writeBlock_seeded : (writeBlock b s).seeded = b.isSome := rfl
@[simp] theorem writeBlock_resetSeen : (writeBlock b s).resetSeen = s.resetSeen := rfl
@[simp] theorem writeBlock_program : (writeBlock b s).program = s.program := rfl
@[simp] theorem writeBlock_index : (writeBlock b s).index = s.index := rfl
@[simp] theorem writeBlock_responses : (writeBlock b s).responses = s.responses := rfl
@[simp] theorem writeBlock_freeCount : (writeBlock b s).freeCount = s.freeCount := rfl
end WriteBlock

theorem blockOf_of_seeded {s : State} (h : s.seeded = true) : blockOf s = some s.state := by
  simp [blockOf, h]

theorem blockOf_of_unseeded {s : State} (h : s.seeded = false) : blockOf s = none := by
  simp [blockOf, h]

@[simp] theorem isSome_blockOf (s : State) : (blockOf s).isSome = s.seeded := by
  cases h : s.seeded <;> simp [blockOf, h]

@[simp] theorem getD_blockOf (s : State) : (blockOf s).getD s.state = s.state := by
  cases h : s.seeded <;> simp [blockOf, h]

@[simp] theorem blockOf_giveResponse (r : Response) (s : State) :
    blockOf (giveResponse r s) = blockOf s := rfl

@[simp] theorem blockOf_advance (s : State) : blockOf (advance s) = blockOf s := rfl

@[simp] theorem blockOf_applyReset (s : State) : blockOf (applyReset s) = none := rfl

@[simp] theorem blockOf_writeBlock (b : Option U128) (s : State) : blockOf (writeBlock b s) = b := by
  cases b <;> rfl

theorem writeBlock_blockOf (s : State) : writeBlock (blockOf s) s = s := by
  simp [writeBlock]

/-- `60_exceptions.md` rule R82: the check comes first. -/
theorem exec_of_unseeded {i : Instr} {s : State} (hi : readsState i = true)
    (hs : s.seeded = false) : exec i s = raise .unseeded s := by
  cases i with
  | next => exact whenSeeded_of_unseeded hs _
  | getstate => exact whenSeeded_of_unseeded hs _
  | seed v => cases hi
  | setstate v => cases hi

/-- A command that raises `Unseeded` leaves the block as it is (`60_exceptions.md` rule R83). -/
theorem transactCommand_none {i : Instr} (hi : readsState i = true) :
    transactCommand i none = (none, errResponse .unseeded) := by
  cases i with
  | next => rfl
  | getstate => rfl
  | seed v => cases hi
  | setstate v => cases hi

theorem writeBlock_some_of_seeded {s : State} (hs : s.seeded = true) (v : U128) :
    writeBlock (some v) s = writeState v s := by
  simp [writeBlock, writeState, hs]

/-- A command that raises `Unseeded` does what `transactCommand` says. -/
theorem exec_eq_of_unseeded {i : Instr} {s : State} (hi : readsState i = true)
    (hs : s.seeded = false) : exec i s = .next (giveResponse (transactCommand i (blockOf s)).2
      (writeBlock (transactCommand i (blockOf s)).1 s)) := by
  have hb := writeBlock_blockOf s
  rw [blockOf_of_unseeded hs] at hb ⊢
  rw [exec_of_unseeded hi hs, transactCommand_none hi, hb, raise]

/-- Every command completes, with the block state and the response that rule R104 gives. -/
theorem exec_eq (i : Instr) (s : State) :
    exec i s = .next (giveResponse (transactCommand i (blockOf s)).2
      (writeBlock (transactCommand i (blockOf s)).1 s)) := by
  cases i with
  | seed v => rfl
  | setstate v => rfl
  | next =>
    cases hs : s.seeded with
    | false => exact exec_eq_of_unseeded rfl hs
    | true =>
      rw [blockOf_of_seeded hs, transactCommand, writeBlock_some_of_seeded hs]
      exact whenSeeded_of_seeded hs _
  | getstate =>
    cases hs : s.seeded with
    | false => exact exec_eq_of_unseeded rfl hs
    | true =>
      rw [blockOf_of_seeded hs, transactCommand, writeBlock_some_of_seeded hs]
      exact whenSeeded_of_seeded hs _

/-- Rule R18: after a command the block is seeded if it was, or if the command stores a value. -/
theorem isSome_transactCommand (i : Instr) (b : Option U128) :
    (transactCommand i b).1.isSome = (b.isSome || setsSeeded i) := by
  cases i <;> cases b <;> rfl

theorem transactCommand_getstate_block (b : Option U128) : (transactCommand .getstate b).1 = b := by
  cases b <;> rfl

/-- Rule R42: an error response carries no data. -/
theorem transactCommand_err_data (i : Instr) (b : Option U128)
    (h : (transactCommand i b).2.err = 1) : (transactCommand i b).2.data = 0 := by
  cases i with
  | seed v => rfl
  | setstate v => rfl
  | next => cases b with
    | none => rfl
    | some x => cases h
  | getstate => cases b with
    | none => rfl
    | some x => cases h

theorem exec_seeded {i : Instr} {s t : State} (h : exec i s = .next t) :
    t.seeded = (s.seeded || setsSeeded i) := by
  rw [exec_eq, Host.Outcome.next.injEq] at h
  simp [← h, isSome_transactCommand]

end Sys2Proof.Machine

/-! One host action as a whole: what a step at a fetched action does to the block and to the host's
side. -/

namespace Sys2Proof.Machine

theorem transact_seeded (a : HostAction) (b : Option U128) :
    (transact a b).1.isSome = seededBy b.isSome a := by
  cases a with
  | reset => rfl
  | cmd w => exact isSome_transactCommand (decode w) b

theorem transact_err_data {a : HostAction} {b : Option U128} {r : Response}
    (hr : (transact a b).2 = some r) (he : r.err = 1) : r.data = 0 := by
  cases a with
  | reset => cases hr
  | cmd w => cases hr; exact transactCommand_err_data _ _ he

/-- Rule R104: a step that answers at the action `a` is `transact a` on the block. -/
theorem step_at_action {s t : State} {a : HostAction} (hf : fetch s = some a)
    (h : step s = .next t) :
    blockOf t = (transact a (blockOf s)).1 ∧
      t.responses = s.responses ++ (transact a (blockOf s)).2.toList ∧
      t.index = s.index + 1 ∧ t.program = s.program ∧ t.resetSeen = true := by
  rcases step_cases h with ⟨hn, -⟩ | ⟨hr, rfl⟩ | ⟨w, hc, hseen, he⟩
  · cases hf.symm.trans hn
  · cases hf.symm.trans hr
    simp [transact]
  · cases hf.symm.trans hc
    rw [exec_eq, Host.Outcome.next.injEq] at he
    simp [← he, transact, hseen]

theorem step_idle {s : State} (hf : fetch s = none) : step s = .next s := by
  simp [step, hf, idle]

/-- Once a `Reset` has been seen no step stops. -/
theorem exists_step_next {s : State} (hs : s.resetSeen = true) : ∃ t, step s = .next t := by
  cases hf : fetch s with
  | none => exact ⟨s, step_idle hf⟩
  | some a => cases a with
    | reset => exact ⟨_, by rw [step, hf]; rfl⟩
    | cmd w => exact ⟨_, by rw [step, hf]; exact (afterFirstReset_of_seen hs _).trans (exec_eq _ _)⟩

end Sys2Proof.Machine

/-! The run invariant (rules R18, R22, R42). -/

namespace Sys2Proof.Machine

theorem commandCount_append (as bs : List HostAction) :
    commandCount (as ++ bs) = commandCount as + commandCount bs := by
  induction as with
  | nil => simp [commandCount]
  | cons a as ih => cases a <;> simp [commandCount, ih, Nat.add_right_comm]

theorem seededAfter_append_singleton (as : List HostAction) (a : HostAction) :
    seededAfter (as ++ [a]) = seededBy (seededAfter as) a := by
  simp [seededAfter]

/-- One response for a command, none for a `Reset`. -/
theorem length_transact_response (a : HostAction) (b : Option U128) :
    (transact a b).2.toList.length = commandCount [a] := by
  cases a <;> rfl

theorem index_lt_of_fetch {s : State} {a : HostAction} (hf : fetch s = some a) :
    s.index < s.program.length :=
  (List.getElem?_eq_some_iff.mp hf).1

theorem take_succ_of_fetch {s : State} {a : HostAction} (hf : fetch s = some a) :
    s.program.take (s.index + 1) = s.program.take s.index ++ [a] := by
  rw [List.take_add_one, show s.program[s.index]? = some a from hf, Option.toList_some]

theorem RunInv.step_at_action {s t : State} {a : HostAction} (inv : RunInv s)
    (hf : fetch s = some a) (h : step s = .next t) : RunInv t := by
  obtain ⟨hblock, hresp, hindex, hprog, -⟩ := Machine.step_at_action hf h
  have htake : t.program.take t.index = s.program.take s.index ++ [a] := by
    rw [hprog, hindex, take_succ_of_fetch hf]
  constructor
  case index_le => rw [hindex, hprog]; exact index_lt_of_fetch hf
  case one_response =>
    rw [hresp, List.length_append, inv.one_response, length_transact_response, htake,
      commandCount_append]
  case seeded_history =>
    rw [htake, seededAfter_append_singleton, ← inv.seeded_history, ← isSome_blockOf t, hblock,
      transact_seeded, isSome_blockOf]
  case err_data =>
    intro r hr
    rw [hresp, List.mem_append, Option.mem_toList] at hr
    exact hr.elim (inv.err_data r) transact_err_data

theorem RunInv.step {s t : State} (inv : RunInv s) (h : step s = .next t) : RunInv t := by
  cases hf : fetch s with
  | none =>
    rw [step_idle hf, Host.Outcome.next.injEq] at h
    exact h ▸ inv
  | some a => exact inv.step_at_action hf h

theorem runInv_loadProgram_reset (prog : List HostAction) : RunInv (loadProgram prog State.reset) where
  index_le := Nat.zero_le _
  one_response := rfl
  seeded_history := rfl
  err_data := fun _ hr => absurd hr List.not_mem_nil

end Sys2Proof.Machine

/-! Runs that agree on everything but the value `STATE` holds while `SEEDED` is 0 (`10_state.md` rule
R19). -/

namespace Sys2Proof.Machine

/-- Two states of a run that no command and no host can tell apart: the same block state as an optional
value, and the same host's side. -/
structure SameObservation (s u : State) : Prop where
  block : blockOf u = blockOf s
  responses : u.responses = s.responses
  program : u.program = s.program
  index : u.index = s.index
  resetSeen : u.resetSeen = s.resetSeen

theorem sameObservation_state_of_unseeded {s : State} (hs : s.seeded = false) (v : U128) :
    SameObservation s { s with state := v } :=
  ⟨(blockOf_of_unseeded hs).symm ▸ blockOf_of_unseeded hs, rfl, rfl, rfl, rfl⟩

theorem SameObservation.seeded {s u : State} (h : SameObservation s u) : u.seeded = s.seeded := by
  rw [← isSome_blockOf u, h.block, isSome_blockOf]

theorem SameObservation.state {s u : State} (h : SameObservation s u) (hs : s.seeded = true) :
    u.state = s.state := by
  have hb := h.block
  rwa [blockOf_of_seeded (h.seeded.trans hs), blockOf_of_seeded hs, Option.some.injEq] at hb

theorem SameObservation.fetch {s u : State} (h : SameObservation s u) : fetch u = fetch s := by
  rw [Machine.fetch, Machine.fetch, h.program, h.index]

theorem SameObservation.step {s u t v : State} (h : SameObservation s u)
    (ht : step s = .next t) (hv : step u = .next v) : SameObservation t v := by
  cases hf : Machine.fetch s with
  | none =>
    rw [step_idle hf, Host.Outcome.next.injEq] at ht
    rw [step_idle (h.fetch.trans hf), Host.Outcome.next.injEq] at hv
    exact ht ▸ hv ▸ h
  | some a =>
    obtain ⟨tblock, tresp, tindex, tprog, tseen⟩ := step_at_action hf ht
    obtain ⟨vblock, vresp, vindex, vprog, vseen⟩ := step_at_action (h.fetch.trans hf) hv
    constructor
    case block => rw [vblock, tblock, h.block]
    case responses => rw [vresp, tresp, h.responses, h.block]
    case program => rw [vprog, tprog, h.program]
    case index => rw [vindex, tindex, h.index]
    case resetSeen => rw [vseen, tseen]

/-- No step takes the power-up flag back. -/
theorem step_resetSeen {s t : State} (hs : s.resetSeen = true) (h : step s = .next t) :
    t.resetSeen = true := by
  cases hf : fetch s with
  | none =>
    rw [step_idle hf, Host.Outcome.next.injEq] at h
    exact h ▸ hs
  | some a =>
    obtain ⟨-, -, -, -, hseen⟩ := step_at_action hf h
    exact hseen

theorem runSteps_succ {n : Nat} {s t : State} (h : step s = .next t) :
    runSteps (n + 1) s = runSteps n t := by
  rw [runSteps, h]

theorem SameObservation.runSteps {s u : State} (n : Nat) (h : SameObservation s u)
    (hs : s.resetSeen = true) :
    ∃ t v, runSteps n s = .next t ∧ runSteps n u = .next v ∧ SameObservation t v := by
  induction n generalizing s u with
  | zero => exact ⟨s, u, rfl, rfl, h⟩
  | succ n ih =>
    obtain ⟨s', hs'⟩ := exists_step_next hs
    obtain ⟨u', hu'⟩ := exists_step_next (h.resetSeen.trans hs)
    rw [runSteps_succ hs', runSteps_succ hu']
    exact ih (h.step hs' hu') (step_resetSeen hs hs')

end Sys2Proof.Machine

/-! A system step is the step of the one addressed (`10_state.md` rule R26). -/

namespace Sys2Proof.Machine

theorem systemStep_of_step {sys : System} {k : Nat} {s s' : State} (hk : sys[k]? = some s)
    (h : step s = .next s') : systemStep k sys = .next (sys.set k s') := by
  simp [systemStep, hk, h]

/-- What a system step that answers can be. -/
theorem systemStep_cases {sys t : System} {k : Nat} (h : systemStep k sys = .next t) :
    ∃ s s', sys[k]? = some s ∧ step s = .next s' ∧ t = sys.set k s' := by
  unfold systemStep at h
  split at h
  · cases h
  · rename_i s hk
    split at h
    · rename_i s' hs
      exact ⟨s, s', hk, hs, (Host.Outcome.next.inj h).symm⟩
    · cases h
    · cases h

end Sys2Proof.Machine

/-! The statements of the family `10_state.md`. -/

namespace Sys2Proof.Proofs

open Sys2Proof Sys2Proof.Machine

/-- Settles O34: a step idles, and keeps the state, or executes the action fetched, which adds to the
history the one action and to the record that action's responses. -/
theorem stepKeepsRunInvariant : Obligations.StepKeepsRunInvariant :=
  fun _ _ inv h => inv.step h

/-- Settles O38: the two runs stay the same but for the unseeded value, by induction on the number of
steps. -/
theorem unseededStateNeverObserved : Obligations.UnseededStateNeverObserved := by
  intro s v n hs hseen
  obtain ⟨t, u, ht, hu, same⟩ := (sameObservation_state_of_unseeded hs v).runSteps n hseen
  exact ⟨t, u, ht, hu, same.responses, same.seeded, same.state⟩

/-- Settles O22: the frame of `exec_eq`. -/
theorem commandFrame : Obligations.CommandFrame := by
  intro i s
  refine ⟨_, _, exec_eq i s, rfl, rfl, rfl, rfl, rfl, ?getstate, ?unseeded, ?flag⟩
  case getstate =>
    rintro rfl
    simp [transactCommand_getstate_block]
  case unseeded =>
    intro hi hs
    simp [blockOf_of_unseeded hs, transactCommand_none hi]
  case flag =>
    intro hi
    simp [isSome_transactCommand, hi]

/-- Settles O27: a command never lowers the flag (`exec_seeded`), so the step that does is a `Reset`. -/
theorem seededFlag : Obligations.SeededFlag := by
  refine ⟨fun _ _ _ => exec_seeded, ?resetClears, ?onlyReset, fun _ _ => exec_of_unseeded, ?signal⟩
  case resetClears =>
    intro s t hf h
    obtain ⟨hblock, -⟩ := step_at_action hf h
    rw [← isSome_blockOf, hblock]
    rfl
  case onlyReset =>
    intro s t h hs ht
    rcases step_cases h with ⟨-, rfl⟩ | ⟨hf, -⟩ | ⟨w, -, -, he⟩
    · cases hs.symm.trans ht
    · exact hf
    · have hkept := exec_seeded he
      rw [advance_seeded, hs, ht] at hkept
      cases hkept
  case signal =>
    intro s
    unfold seededSignal
    cases s.seeded <;> rfl

/-- Settles O33: every conjunct is a value that the reset states and the constants write out. -/
theorem resetState : Obligations.ResetState :=
  ⟨rfl, rfl, rfl, rfl, rfl, rfl, rfl, rfl, rfl⟩

/-- Settles O35: at reset nothing has been executed and nothing answered, whatever the program. -/
theorem runInvariantAtReset : Obligations.RunInvariantAtReset :=
  ⟨runInv_loadProgram_reset [], runInv_loadProgram_reset⟩

/-- Settles O54: by what a system step can be, and `List.set`. -/
theorem instanceActionIsItsOwn : Obligations.InstanceActionIsItsOwn := by
  refine ⟨?onlyThis, fun _ _ _ _ => systemStep_of_step⟩
  intro sys t k h
  obtain ⟨s, s', hk, hs, rfl⟩ := systemStep_cases h
  have hlt : k < sys.length := (List.getElem?_eq_some_iff.mp hk).1
  exact ⟨List.length_set, fun j hj => List.getElem?_set_ne hj.symm,
    s, s', hk, hs, List.getElem?_set_self hlt⟩

end Sys2Proof.Proofs

/-! Which commands are idempotent (`20_memory.md` rule R31), and the step at a command word (rule R30). -/

namespace Sys2Proof.Machine

theorem step_at_command {s : State} {w : CmdWord} (hf : fetch s = some (.cmd w))
    (hs : s.resetSeen = true) : step s = exec (decode w) (advance s) := by
  rw [step, hf]
  exact afterFirstReset_of_seen hs _

/-- A repeated `SEED`, `SETSTATE` or `GETSTATE` leaves the block state that one leaves. -/
theorem transactCommand_block_idempotent {i : Instr} (hi : i ≠ .next) (b : Option U128) :
    (transactCommand i (transactCommand i b).1).1 = (transactCommand i b).1 := by
  cases i with
  | next => exact absurd rfl hi
  | seed v => rfl
  | setstate v => rfl
  | getstate => rw [transactCommand_getstate_block]

theorem exec_blockOf {i : Instr} {s t : State} (h : exec i s = .next t) :
    blockOf t = (transactCommand i (blockOf s)).1 := by
  rw [exec_eq, Host.Outcome.next.injEq] at h
  rw [← h, blockOf_giveResponse, blockOf_writeBlock]

/-- A command that leaves the block as it finds it only adds its response. -/
theorem exec_eq_giveResponse {i : Instr} {s : State}
    (h : (transactCommand i (blockOf s)).1 = blockOf s) :
    exec i s = .next (giveResponse (transactCommand i (blockOf s)).2 s) := by
  rw [exec_eq, h, writeBlock_blockOf]

theorem exec_next_of_seeded {s : State} (hs : s.seeded = true) :
    exec .next s = .next (giveResponse (okResponse (zext128 (perm (lcg s.state))))
      (writeState (lcg s.state) s)) :=
  whenSeeded_of_seeded hs _

/-- The multiplier and the increment are odd, so the step changes bit 0 of every value. -/
theorem lcg_ne_self (x : U128) : lcg x ≠ x := by
  intro h
  have hx := congrArg BitVec.toNat h
  rw [lcg_toNat, multiplier_toNat, increment_toNat] at hx
  omega

end Sys2Proof.Machine

/-! The merge of several requesters' queues (`20_memory.md` rule R38). -/

namespace Sys2Proof.Machine

/-- `m` interleaves the first actions of each queue: those of requester `k` in `m` begin its queue, in its
order. -/
def Interleaves (queues : List (List HostAction)) (m : List (Nat × HostAction)) : Prop :=
  ∀ k, (m.filter (fun p => p.1 == k)).map Prod.snd <+: (queues[k]?).getD []

theorem interleaves_nil (queues : List (List HostAction)) : Interleaves queues [] :=
  fun _ => List.nil_prefix

/-- Taking the first action of a requester's queue leaves every requester the rest of its own. -/
theorem interleaves_cons_iff_set {queues : List (List HostAction)} {c : Nat} {a : HostAction}
    {rest : List HostAction} (hc : queues[c]? = some (a :: rest)) (m : List (Nat × HostAction)) :
    Interleaves queues ((c, a) :: m) ↔ Interleaves (queues.set c rest) m := by
  have hlt : c < queues.length := (List.getElem?_eq_some_iff.mp hc).1
  refine forall_congr' fun k => ?_
  by_cases hk : c = k
  case pos =>
    subst hk
    simp [hc, List.getElem?_set_self hlt]
  case neg => simp [hk, List.getElem?_set_ne hk]

theorem exists_queue_of_interleaves_cons {queues : List (List HostAction)} {c : Nat} {a : HostAction}
    {m : List (Nat × HostAction)} (h : Interleaves queues ((c, a) :: m)) :
    ∃ rest, queues[c]? = some (a :: rest) := by
  have hpre : a :: (m.filter (fun p => p.1 == c)).map Prod.snd <+: (queues[c]?).getD [] := by
    simpa using h c
  match hc : queues[c]? with
  | none => simp [hc] at hpre
  | some [] => simp [hc] at hpre
  | some (b :: rest) =>
    rw [hc, Option.getD_some] at hpre
    obtain ⟨rfl, -⟩ := List.cons_prefix_cons.mp hpre
    exact ⟨rest, rfl⟩

/-- The first action of an interleaving is the first of its requester's queue, and what follows
interleaves what that leaves. -/
theorem interleaves_cons {queues : List (List HostAction)} {c : Nat} {a : HostAction}
    {m : List (Nat × HostAction)} :
    Interleaves queues ((c, a) :: m) ↔
      ∃ rest, queues[c]? = some (a :: rest) ∧ Interleaves (queues.set c rest) m := by
  constructor
  case mp =>
    intro h
    obtain ⟨rest, hc⟩ := exists_queue_of_interleaves_cons h
    exact ⟨rest, hc, (interleaves_cons_iff_set hc m).mp h⟩
  case mpr =>
    rintro ⟨rest, hc, h⟩
    exact (interleaves_cons_iff_set hc m).mpr h

theorem merge_cons_of_some {c : Nat} {cs : List Nat} {queues : List (List HostAction)}
    {a : HostAction} {rest : List HostAction} (h : queues[c]? = some (a :: rest)) :
    merge (c :: cs) queues = (c, a) :: merge cs (queues.set c rest) := by
  rw [merge, h]

/-- A choice takes the first action of its requester's queue, or adds nothing. -/
theorem merge_cons_cases (c : Nat) (cs : List Nat) (queues : List (List HostAction)) :
    merge (c :: cs) queues = merge cs queues ∨
      ∃ a rest, queues[c]? = some (a :: rest) ∧
        merge (c :: cs) queues = (c, a) :: merge cs (queues.set c rest) := by
  match h : queues[c]? with
  | none => exact .inl (by rw [merge, h])
  | some [] => exact .inl (by rw [merge, h])
  | some (a :: rest) => exact .inr ⟨a, rest, rfl, merge_cons_of_some h⟩

theorem interleaves_merge (choices : List Nat) (queues : List (List HostAction)) :
    Interleaves queues (merge choices queues) := by
  induction choices generalizing queues with
  | nil => exact interleaves_nil queues
  | cons c cs ih =>
    rcases merge_cons_cases c cs queues with h | ⟨a, rest, hc, h⟩
    · exact h ▸ ih queues
    · exact h ▸ interleaves_cons.mpr ⟨rest, hc, ih _⟩

/-- An interleaving is the merge that chooses the requesters in the order in which it names them. -/
theorem merge_map_fst {queues : List (List HostAction)} {m : List (Nat × HostAction)}
    (h : Interleaves queues m) : merge (m.map Prod.fst) queues = m := by
  induction m generalizing queues with
  | nil => rfl
  | cons p m ih =>
    obtain ⟨rest, hc, hrest⟩ := interleaves_cons.mp h
    rw [List.map_cons, merge_cons_of_some hc, ih hrest]

end Sys2Proof.Machine

/-! The statements of the family `20_memory.md`. -/

namespace Sys2Proof.Proofs

open Sys2Proof Sys2Proof.Machine

/-- Settles O44: for the three commands by `transactCommand_block_idempotent`, for `NEXT` because the
step has no fixed point. -/
theorem idempotency : Obligations.Idempotency := by
  constructor
  case left =>
    intro i s t u hi hs ht
    have hkept : (transactCommand i (blockOf t)).1 = blockOf t := by
      rw [exec_blockOf hs, transactCommand_block_idempotent hi]
    rw [exec_eq_giveResponse hkept, Host.Outcome.next.injEq] at ht
    subst ht
    exact ⟨rfl, rfl⟩
  case right =>
    intro s hs
    exact ⟨_, _, exec_next_of_seeded hs, exec_next_of_seeded hs, rfl, rfl, lcg_ne_self _⟩

/-- Settles O55: by induction on the choices, and on the interleaving, each of which takes the first
action of one queue at a time (`interleaves_cons`). -/
theorem mergeKeepsEachRequestersOrder : Obligations.MergeKeepsEachRequestersOrder := by
  constructor
  case left => exact interleaves_merge
  case right =>
    intro queues m h
    have hm := merge_map_fst h
    exact ⟨m.map Prod.fst, hm, by rw [sharedProgram, hm]⟩

/-- Settles O28: the power-up check lets the command through. -/
theorem stepRunsDecodedCommand : Obligations.StepRunsDecodedCommand :=
  fun _ _ => step_at_command

end Sys2Proof.Proofs

/-! The fields of a command word (`30_encoding.md` rules R41, R43 to R46): a word is its `op` above its
operand, and a command is one value of `op` with one operand, 0 where the operand is ignored. -/

namespace Sys2Proof

open Sys2Proof.Laws (ofNat_op_operand append_and_mask operandField_append)

/-- The `op` of a command's row of the opcode map (rule R43): the field of its word, `opField_encode`. -/
def opcode : Instr → BitVec 2
  | .next => 0b00
  | .seed _ => 0b01
  | .getstate => 0b10
  | .setstate _ => 0b11

/-- The operand the assembler emits for a command (rule R45): the field of its word, by
`operandField_encode`. -/
def operandWord (i : Instr) : U128 := BitVec.ofNat 128 (operandValue i)

@[simp] theorem operandWord_next : operandWord .next = 0 := rfl
@[simp] theorem operandWord_getstate : operandWord .getstate = 0 := rfl
@[simp] theorem operandWord_seed (s : U128) : operandWord (.seed s) = s := BitVec.ofNat_toNat 128 s
@[simp] theorem operandWord_setstate (v : U128) : operandWord (.setstate v) = v :=
  BitVec.ofNat_toNat 128 v

theorem opField_append (a : BitVec 2) (v : U128) : opField (a ++ v) = a :=
  BitVec.extractLsb'_append_eq_left

theorem opField_append_operandField (w : CmdWord) : opField w ++ operandField w = w :=
  BitVec.extractLsb'_append_extractLsb'

/-- The value of two fields side by side, as rules R41 and R42 write it. -/
theorem toNat_append_eq_mul_add {m n : Nat} (a : BitVec m) (b : BitVec n) :
    (a ++ b).toNat = a.toNat * 2 ^ n + b.toNat := by
  rw [BitVec.toNat_append, ← Nat.shiftLeft_add_eq_or_of_lt b.isLt, Nat.shiftLeft_eq]

theorem toNat_eq_opField_operandField (w : CmdWord) :
    w.toNat = (opField w).toNat * 2 ^ 128 + (operandField w).toNat := by
  rw [← toNat_append_eq_mul_add, opField_append_operandField]

section Encode

theorem encode_eq_append (i : Instr) : encode i = opcode i ++ operandWord i := by
  cases i with
  | next => rfl
  | seed s => rw [operandWord_seed]; exact ofNat_op_operand 1 s
  | getstate => rfl
  | setstate v => rw [operandWord_setstate]; exact ofNat_op_operand 3 v

theorem opField_encode (i : Instr) : opField (encode i) = opcode i := by
  rw [encode_eq_append, opField_append]

theorem operandField_encode (i : Instr) : operandField (encode i) = operandWord i := by
  rw [encode_eq_append, operandField_append]

theorem encodeNat_lt (i : Instr) : encodeNat i < 2 ^ 130 := by
  cases i with
  | next => decide
  | seed s => have := s.isLt; simp only [encodeNat]; omega
  | getstate => decide
  | setstate v => have := v.isLt; simp only [encodeNat]; omega

theorem toNat_encode (i : Instr) : (encode i).toNat = encodeNat i := by
  rw [encode, BitVec.toNat_ofNat, Nat.mod_eq_of_lt (encodeNat_lt i)]

end Encode

section Decode
variable {w : CmdWord}

theorem decode_of_op00 (h : opField w = 0b00) : decode w = .next := by rw [decode, h]; rfl
theorem decode_of_op01 (h : opField w = 0b01) : decode w = .seed (operandField w) := by rw [decode, h]; rfl
theorem decode_of_op10 (h : opField w = 0b10) : decode w = .getstate := by rw [decode, h]; rfl
theorem decode_of_op11 (h : opField w = 0b11) : decode w = .setstate (operandField w) := by
  rw [decode, h]; rfl

/-- All four values of `op` are assigned (rule R43). -/
theorem decode_cases (w : CmdWord) :
    (opField w = 0b00 ∧ decode w = .next) ∨
    (opField w = 0b01 ∧ decode w = .seed (operandField w)) ∨
    (opField w = 0b10 ∧ decode w = .getstate) ∨
    (opField w = 0b11 ∧ decode w = .setstate (operandField w)) := by
  have all_assigned : ∀ a : BitVec 2, a = 0b00 ∨ a = 0b01 ∨ a = 0b10 ∨ a = 0b11 := by decide
  rcases all_assigned (opField w) with h | h | h | h
  · exact .inl ⟨h, decode_of_op00 h⟩
  · exact .inr (.inl ⟨h, decode_of_op01 h⟩)
  · exact .inr (.inr (.inl ⟨h, decode_of_op10 h⟩))
  · exact .inr (.inr (.inr ⟨h, decode_of_op11 h⟩))

theorem decode_encode (i : Instr) : decode (encode i) = i := by
  have hop := opField_encode i
  have hv := operandField_encode i
  cases i with
  | next => exact decode_of_op00 hop
  | seed s => rw [decode_of_op01 hop, hv, operandWord_seed]
  | getstate => exact decode_of_op10 hop
  | setstate v => rw [decode_of_op11 hop, hv, operandWord_setstate]

theorem opcode_decode (w : CmdWord) : opcode (decode w) = opField w := by
  rcases decode_cases w with ⟨h, hd⟩ | ⟨h, hd⟩ | ⟨h, hd⟩ | ⟨h, hd⟩ <;> rw [h, hd] <;> rfl

theorem getLsbD_128 (w : CmdWord) : w.getLsbD 128 = (opField w).getLsbD 0 := by
  rw [opField, BitVec.getLsbD_extractLsb']; rfl

theorem getLsbD_129 (w : CmdWord) : w.getLsbD 129 = (opField w).getLsbD 1 := by
  rw [opField, BitVec.getLsbD_extractLsb']; rfl

/-- Bit 128, `op[0]`, says whether the command has an operand (rules R43, R45). -/
theorem operandWord_decode (w : CmdWord) :
    operandWord (decode w) = if w.getLsbD 128 then operandField w else 0 := by
  rw [getLsbD_128]
  rcases decode_cases w with ⟨h, hd⟩ | ⟨h, hd⟩ | ⟨h, hd⟩ | ⟨h, hd⟩ <;> simp [h, hd]

/-- Decoding and encoding again loses the operand of a command that ignores it, and nothing else
(rule R45). -/
theorem encode_decode (w : CmdWord) :
    encode (decode w) = opField w ++ if w.getLsbD 128 then operandField w else 0 := by
  rw [encode_eq_append, opcode_decode, operandWord_decode]

theorem encode_decode_eq_self_iff (w : CmdWord) :
    encode (decode w) = w ↔ (if w.getLsbD 128 then operandField w else 0) = operandField w := by
  calc encode (decode w) = w
    _ ↔ encode (decode w) = opField w ++ operandField w := by rw [opField_append_operandField]
    _ ↔ _ := by rw [encode_decode, BitVec.append_right_inj]

/-- A command whose `op[0]` is 0 is decoded from its `op` alone (rule R45). -/
theorem decode_congr_of_op {w w' : CmdWord} (hop : opField w = opField w')
    (hbit : w.getLsbD 128 = false) : decode w = decode w' := by
  have hbit' : w'.getLsbD 128 = false := by rw [getLsbD_128, ← hop, ← getLsbD_128, hbit]
  rw [← decode_encode (decode w), ← decode_encode (decode w'), encode_decode, encode_decode, hop,
    hbit, hbit']
  rfl

end Decode

section OpcodeMap

theorem opcodeMatch_eq_append (i : Instr) : opcodeMatch i = opcode i ++ (0 : U128) := by
  cases i <;> simp only [opcodeMatch, opcode] <;> decide

/-- Under the mask a word is its `op` alone (rule R43). -/
theorem and_opcodeMask (w : CmdWord) : w &&& opcodeMask = opField w ++ (0 : U128) := by
  conv_lhs => rw [← opField_append_operandField w, append_and_mask]

theorem setsSeeded_eq_opcode (i : Instr) : Machine.setsSeeded i = (opcode i).getLsbD 0 := by
  cases i <;> simp [Machine.setsSeeded, opcode]

theorem opcode_getLsbD_1 (i : Instr) :
    (opcode i).getLsbD 1 = true ↔ i = .getstate ∨ ∃ v, i = .setstate v := by
  cases i <;> simp [opcode]

end OpcodeMap

end Sys2Proof

/-! The fields of a response word (`30_encoding.md` rule R42). -/

namespace Sys2Proof.Machine

theorem responseOfWord_responseWord (r : Response) : responseOfWord (responseWord r) = r := by
  rw [responseOfWord, responseWord, BitVec.extractLsb'_append_eq_left,
    BitVec.extractLsb'_append_eq_right]

theorem responseWord_responseOfWord (w : RspWord) : responseWord (responseOfWord w) = w :=
  BitVec.extractLsb'_append_extractLsb'

end Sys2Proof.Machine

/-! What each port event can do (`30_encoding.md` rules R39, R40; `70_reset_and_hazards.md` rules R95,
R99). -/

namespace Sys2Proof.Machine

section PortEvents
variable {p q : Port}

theorem cmdReady_eq_true_iff : cmdReady p = true ↔ p.phase = .idle := by
  unfold cmdReady
  cases p.phase <;> simp

theorem cmdReady_of_busy {i : Instr} {ms : List MicroOp} (h : p.phase = .busy i ms) :
    cmdReady p = false := by rw [cmdReady, h]

theorem cmdReady_of_responding {r : Response} (h : p.phase = .responding r) :
    cmdReady p = false := by rw [cmdReady, h]

theorem offeredResponse_of_responding {r : Response} (h : p.phase = .responding r) :
    offeredResponse p = some r := by rw [offeredResponse, h]

/-- An offer changes the host's wires only. -/
theorem portOffer_cases {w : CmdWord} (h : portOffer w p = .next q) :
    q = { p with offer := some w } := by
  unfold portOffer at h
  split at h
  next => exact (Host.Outcome.next.inj h).symm
  next v hv =>
    split at h
    next hvw =>
      rw [← Host.Outcome.next.inj h, ← hvw, ← hv]
    next => cases h

theorem portWithdraw_cases (h : portWithdraw p = .next q) : q = p := by
  unfold portWithdraw at h
  split at h
  next => exact (Host.Outcome.next.inj h).symm
  next => cases h

theorem portOffer_of_none {w : CmdWord} (h : p.offer = none) :
    portOffer w p = .next { p with offer := some w } := by rw [portOffer, h]

theorem portAccept_of_idle {w : CmdWord} (hoffer : p.offer = some w) (hidle : p.phase = .idle)
    (hseen : p.engine.core.resetSeen = true) : portAccept p = .next (startCommand (decode w) p) := by
  rw [portAccept, hoffer, cmdReady_eq_true_iff.mpr hidle]
  exact if_pos hseen

/-- Acceptance takes the word offered, at idle ports (rule R40). -/
theorem portAccept_cases (h : portAccept p = .next q) :
    ∃ w, p.offer = some w ∧ p.phase = .idle ∧ q = startCommand (decode w) p := by
  unfold portAccept at h
  split at h
  next w hoffer hready =>
    split at h
    next => exact ⟨w, hoffer, cmdReady_eq_true_iff.mp hready, (Host.Outcome.next.inj h).symm⟩
    next => cases h
  next => cases h
  next => cases h

theorem portTransfer_of_responding {r : Response} (h : p.phase = .responding r) :
    portTransfer p = .next
      { p with engine := { p.engine with core := giveResponse r p.engine.core }, phase := .idle } := by
  rw [portTransfer, h]

theorem portTransfer_cases (h : portTransfer p = .next q) :
    ∃ r, p.phase = .responding r ∧
      q = { p with engine := { p.engine with core := giveResponse r p.engine.core }, phase := .idle } := by
  unfold portTransfer at h
  split at h
  next => cases h
  next => cases h
  next r hr => exact ⟨r, hr, (Host.Outcome.next.inj h).symm⟩

theorem portTick_of_idle (h : p.phase = .idle) : portTick p = .next p := by rw [portTick, h]

theorem portTick_of_micro {i : Instr} {m : MicroOp} {ms : List MicroOp}
    (h : p.phase = .busy i (m :: ms)) :
    portTick p = .next { p with engine := runMicro m p.engine, phase := .busy i ms } := by
  rw [portTick, h]

theorem portTick_of_done {i : Instr} (h : p.phase = .busy i []) :
    portTick p = .next { p with phase := .responding (microResponse i p.engine) } := by
  rw [portTick, h]

theorem portTick_of_responding {r : Response} (h : p.phase = .responding r) :
    portTick p = .next p := by rw [portTick, h]

/-- A tick neither ends a command's flight nor starts one. -/
theorem cmdReady_of_portTick (h : portTick p = .next q) : cmdReady q = cmdReady p := by
  cases hp : p.phase with
  | idle =>
    rw [portTick_of_idle hp, Host.Outcome.next.injEq] at h
    rw [h]
  | busy i ms =>
    rw [cmdReady_of_busy hp]
    cases ms with
    | nil => rw [portTick_of_done hp, Host.Outcome.next.injEq] at h; rw [← h]; rfl
    | cons m ms => rw [portTick_of_micro hp, Host.Outcome.next.injEq] at h; rw [← h]; rfl
  | responding r =>
    rw [portTick_of_responding hp, Host.Outcome.next.injEq] at h
    rw [h]

end PortEvents

end Sys2Proof.Machine

/-! The micro-operations of a command have the effect of the command (`30_encoding.md` rule R50,
`41_seed.md` rule R64). -/

namespace Sys2Proof.Machine

/-- The reading commands run nothing when they raise `Unseeded` (`60_exceptions.md` rule R83). -/
theorem microOps_of_unseeded {i : Instr} (hi : readsState i = true) : microOps i false = [] := by
  cases i with
  | next => rfl
  | getstate => rfl
  | seed v => cases hi
  | setstate v => cases hi

theorem microResponse_of_unseeded {i : Instr} {e : Engine} (hi : readsState i = true)
    (hs : e.core.seeded = false) : microResponse i e = errResponse .unseeded := by
  cases i with
  | next => simp [microResponse, hs]
  | getstate => simp [microResponse, hs]
  | seed v => cases hi
  | setstate v => cases hi

/-- The engine after a whole command: its sequence has run and its response is transferred. -/
def runCommand (i : Instr) (e : Engine) : Engine :=
  let f := runMicros (microOps i e.core.seeded) e
  { f with core := giveResponse (microResponse i f) f.core }

theorem runCommand_core_of_unseeded {i : Instr} {e : Engine} (hi : readsState i = true)
    (hs : e.core.seeded = false) :
    (runCommand i e).core = giveResponse (errResponse .unseeded) e.core := by
  rw [runCommand, hs, microOps_of_unseeded hi, ← microResponse_of_unseeded hi hs]
  rfl

theorem exec_eq_runCommand_of_unseeded {i : Instr} {e : Engine} (hi : readsState i = true)
    (hs : e.core.seeded = false) : exec i e.core = .next (runCommand i e).core := by
  rw [exec_of_unseeded hi hs, runCommand_core_of_unseeded hi hs, raise]

/-- The sequence of a command, followed by its response, is the command. -/
theorem exec_eq_runCommand (i : Instr) (e : Engine) :
    exec i e.core = .next (runCommand i e).core := by
  cases i with
  | seed v => rfl
  | setstate v => rfl
  | next =>
    cases hs : e.core.seeded with
    | false => exact exec_eq_runCommand_of_unseeded rfl hs
    | true =>
      rw [exec_next_of_seeded hs, runCommand, hs]
      simp [microOps, runMicros, runMicro, microResponse, hs, stepState_eq]
  | getstate =>
    cases hs : e.core.seeded with
    | false => exact exec_eq_runCommand_of_unseeded rfl hs
    | true =>
      rw [exec, execGetstate, whenSeeded_of_seeded hs, runCommand, hs]
      simp [microOps, runMicros, runMicro, microResponse, hs, respond]

end Sys2Proof.Machine

/-! Runs of the ports (`30_encoding.md` rule R40). -/

namespace Sys2Proof.Machine

theorem portRun_cons {e : PortEvent} {es : List PortEvent} {p q : Port} (h : portEvent e p = .next q) :
    portRun (e :: es) p = portRun es q := by
  rw [portRun, h]

theorem portRun_append {es fs : List PortEvent} {p q : Port} (h : portRun es p = .next q) :
    portRun (es ++ fs) p = portRun fs q := by
  induction es generalizing p with
  | nil => rw [← Host.Outcome.next.inj h, List.nil_append]
  | cons e es ih =>
    rw [portRun] at h
    split at h
    next p' hp' => rw [List.cons_append, portRun_cons hp', ih h]
    next => cases h
    next => cases h

/-- The ports once the sequencer has run `ms` for the command `i` and offers the response. -/
def answered (i : Instr) (ms : List MicroOp) (p : Port) : Port :=
  { p with
    engine := runMicros ms p.engine
    phase := .responding (microResponse i (runMicros ms p.engine)) }

/-- As many ticks as micro-operations are left run them, and one more offers the response. -/
theorem portRun_ticks {i : Instr} {ms : List MicroOp} {p : Port} (h : p.phase = .busy i ms) :
    portRun (List.replicate (ms.length + 1) .tick) p = .next (answered i ms p) := by
  induction ms generalizing p with
  | nil => exact portRun_cons (portTick_of_done h)
  | cons m ms ih => exact (portRun_cons (e := .tick) (portTick_of_micro h)).trans (ih rfl)

theorem portRun_offer_accept {p : Port} {w : CmdWord} (es : List PortEvent) (hidle : p.phase = .idle)
    (hoffer : p.offer = none) (hseen : p.engine.core.resetSeen = true) :
    portRun (.offer w :: .accept :: es) p =
      portRun es (startCommand (decode w) { p with offer := some w }) := by
  rw [portRun_cons (e := .offer w) (portOffer_of_none hoffer)]
  exact portRun_cons (e := .accept) (portAccept_of_idle rfl hidle hseen)

theorem portRun_transfer {p : Port} {r : Response} (h : p.phase = .responding r) :
    portRun [.transfer] p = .next
      { p with engine := { p.engine with core := giveResponse r p.engine.core }, phase := .idle } :=
  portRun_cons (e := .transfer) (portTransfer_of_responding h)

/-- One whole command, from idle ports to idle ports. -/
theorem portRun_commandEvents {p : Port} {w : CmdWord} (hidle : p.phase = .idle)
    (hoffer : p.offer = none) (hseen : p.engine.core.resetSeen = true) :
    portRun (commandEvents w (ticksOf (decode w) p.engine.core.seeded)) p =
      .next { engine := runCommand (decode w) p.engine, offer := none, phase := .idle } := by
  rw [commandEvents, ticksOf, portRun_offer_accept _ hidle hoffer hseen]
  exact (portRun_append (portRun_ticks rfl)).trans (portRun_transfer rfl)

end Sys2Proof.Machine

/-! The assembler's literals and repeat counts (`30_encoding.md` rules R47, R48). -/

namespace Sys2Proof.Machine

theorem withLiteral_of_lt {n : Nat} (h : n < 2 ^ 128) (k : U128 → Instr) :
    withLiteral n k = some [asmCommand (k (BitVec.ofNat 128 n))] :=
  if_pos (decide_eq_true h)

theorem withLiteral_of_le {n : Nat} (h : 2 ^ 128 ≤ n) (k : U128 → Instr) : withLiteral n k = none :=
  if_neg (by rw [literalFits, decide_eq_true_iff]; exact Nat.not_lt.mpr h)

theorem encode_seed_ofNat {n : Nat} (h : n < 2 ^ 128) :
    encode (.seed (BitVec.ofNat 128 n)) = BitVec.ofNat 130 (1 * 2 ^ 128 + n) := by
  rw [encode, encodeNat, BitVec.toNat_ofNat, Nat.mod_eq_of_lt h]

theorem encode_setstate_ofNat {n : Nat} (h : n < 2 ^ 128) :
    encode (.setstate (BitVec.ofNat 128 n)) = BitVec.ofNat 130 (3 * 2 ^ 128 + n) := by
  rw [encode, encodeNat, BitVec.toNat_ofNat, Nat.mod_eq_of_lt h]

theorem assemble_replicate_next (n : Nat) :
    assemble (List.replicate n .next) = some (List.replicate n (asmCommand .next)) := by
  induction n with
  | zero => rfl
  | succ n ih => rw [List.replicate_succ, assemble, assembleLine, ih]; rfl

theorem assembleLine_nextTimes {n : Nat} (h : 0 < n) :
    assembleLine (.nextTimes n) = some (List.replicate n (asmCommand .next)) :=
  if_pos (decide_eq_true h)

end Sys2Proof.Machine

/-! The statements of the family `30_encoding.md`. -/

namespace Sys2Proof.Proofs

open Sys2Proof Sys2Proof.Machine

/-- Settles O1: a word is its `op` above its operand, and `encode_decode` says which of the two is
lost. -/
theorem encodeDecodeAndIgnoredBits : Obligations.EncodeDecodeAndIgnoredBits := by
  refine ⟨decode_encode, ?lossless, ?ignored⟩
  case lossless =>
    intro w
    rw [encode_decode_eq_self_iff]
    cases w.getLsbD 128 <;> simp [eq_comm]
  case ignored =>
    intro w w' hop hbit
    have hd := decode_congr_of_op hop hbit
    exact ⟨hd, fun s => by rw [hd]⟩

/-- Settles O46: the events of one command run `runCommand`, whose core is what `exec` makes of it. -/
theorem handshakeRunsOneCommand : Obligations.HandshakeRunsOneCommand := by
  intro p w hidle hoffer hseen
  exact ⟨_, portRun_commandEvents hidle hoffer hseen, exec_eq_runCommand (decode w) p.engine, rfl, rfl⟩

/-- Settles O2: by the two fields of a word and the four values of `op`. -/
theorem commandWordFormat : Obligations.CommandWordFormat :=
  ⟨toNat_eq_opField_operandField,
    fun _ => ⟨decode_of_op00, decode_of_op01, decode_of_op10, decode_of_op11⟩,
    toNat_encode _, fun _ => toNat_encode _, toNat_encode _, fun _ => toNat_encode _⟩

/-- Settles O4: under the mask a word is its `op` alone, and so is a match word. -/
theorem opcodeMapSelectsOneRow : Obligations.OpcodeMapSelectsOneRow := by
  refine ⟨?ownRow, ?onlyRow, ?bit0, ?bit1⟩
  case ownRow =>
    intro w
    rw [and_opcodeMask, opcodeMatch_eq_append, opcode_decode]
  case onlyRow =>
    intro w i h
    rw [and_opcodeMask, opcodeMatch_eq_append, BitVec.append_left_inj] at h
    rw [opField_encode, h]
  case bit0 =>
    intro w
    rw [getLsbD_128, ← opcode_decode, setsSeeded_eq_opcode]
  case bit1 =>
    intro w
    rw [getLsbD_129, ← opcode_decode, opcode_getLsbD_1]

/-- Settles O5: a response word is `err` above `data`. -/
theorem responseWordFormat : Obligations.ResponseWordFormat :=
  ⟨fun _ => toNat_append_eq_mul_add _ _, responseOfWord_responseWord, responseWord_responseOfWord, rfl⟩

/-- Settles O47: of the events only a transfer and a reset lead from a busy port to an idle one. -/
theorem oneCommandInFlight : Obligations.OneCommandInFlight := by
  refine ⟨?accept, ?ready, ?transfer⟩
  case accept =>
    intro p q h
    obtain ⟨w, hoffer, hidle, rfl⟩ := portAccept_cases h
    exact ⟨cmdReady_eq_true_iff.mpr hidle, rfl, w, hoffer, rfl⟩
  case ready =>
    intro e p q h hp hq
    have kept : cmdReady q ≠ cmdReady p := by simp [hp, hq]
    cases e with
    | offer w => exact absurd (by rw [portOffer_cases h]; rfl) kept
    | withdraw => exact absurd (by rw [portWithdraw_cases h]) kept
    | accept =>
      obtain ⟨w, -, hidle, -⟩ := portAccept_cases h
      cases hp.symm.trans (cmdReady_eq_true_iff.mpr hidle)
    | tick => exact absurd (cmdReady_of_portTick h) kept
    | transfer =>
      obtain ⟨r, hr, -⟩ := portTransfer_cases h
      exact .inl ⟨rfl, by rw [rspValid, offeredResponse_of_responding hr]; rfl⟩
    | rst => exact .inr rfl
  case transfer =>
    intro p q h
    obtain ⟨r, hr, rfl⟩ := portTransfer_cases h
    exact ⟨r, offeredResponse_of_responding hr, rfl⟩

/-- Settles O48: while a response is offered there is nothing to accept and nothing to run. -/
theorem responseHeldUntilTransfer : Obligations.ResponseHeldUntilTransfer := by
  intro e p q r hr h
  have held : ∀ {o : Option CmdWord}, q = { p with offer := o } →
      q.phase = .responding r ∧ q.engine = p.engine ∧ cmdReady q = false := by
    rintro o rfl
    exact ⟨hr, rfl, cmdReady_of_responding hr⟩
  cases e with
  | offer w => exact .inr (.inr (held (portOffer_cases h)))
  | withdraw => exact .inr (.inr (held (portWithdraw_cases h)))
  | accept =>
    obtain ⟨w, -, hidle, -⟩ := portAccept_cases h
    cases hr.symm.trans hidle
  | tick => exact .inr (.inr (held (Host.Outcome.next.inj (h.symm.trans (portTick_of_responding hr)))))
  | transfer => exact .inl rfl
  | rst => exact .inr (.inl rfl)

/-- Settles O56: the count by induction on the lines written out, the literals by the range check. -/
theorem assemblerLines : Obligations.AssemblerLines := by
  refine ⟨?inRange, ?outOfRange, ?pseudo, ?times, rfl, rfl, rfl, rfl⟩
  case inRange =>
    intro n h
    rw [← encode_seed_ofNat h, ← encode_setstate_ofNat h]
    exact ⟨withLiteral_of_lt h .seed, withLiteral_of_lt h .setstate⟩
  case outOfRange => exact fun n h => ⟨withLiteral_of_le h .seed, withLiteral_of_le h .setstate⟩
  case pseudo => exact fun n => ⟨rfl, rfl⟩
  case times =>
    intro n h
    rw [assembleLine_nextTimes h, assemble_replicate_next]

/-- Settles O3: the words are closed, so the decoder runs. -/
theorem sampleCommandWordsDecode : Obligations.SampleCommandWordsDecode := by
  unfold Obligations.SampleCommandWordsDecode
  decide

/-- Settles O45: each equation is `runMicro` or `microOps` at one constructor. -/
theorem microOperations : Obligations.MicroOperations :=
  ⟨fun _ => rfl, fun _ => rfl, fun _ _ => rfl, fun _ _ => rfl, fun _ => rfl, fun _ => rfl, fun _ => rfl,
    fun _ _ => rfl, rfl, rfl, fun _ _ => rfl⟩

end Sys2Proof.Proofs

/-! The wrapping arithmetic of MAD128 (`40_step_mad.md` rules R54, R55), and the bijection the step is
(rule R59). -/

namespace Sys2Proof.Machine

theorem mul128_toNat (a b : U128) : (mul128 a b).toNat = a.toNat * b.toNat % 2 ^ 128 :=
  BitVec.toNat_mul a b

theorem add128_toNat (a b : U128) : (add128 a b).toNat = (a.toNat + b.toNat) % 2 ^ 128 :=
  BitVec.toNat_add a b

theorem add128_comm (a b : U128) : add128 a b = add128 b a := BitVec.add_comm a b

theorem mul128_comm (a b : U128) : mul128 a b = mul128 b a := BitVec.mul_comm a b

/-- The low half of a product is the same whether the operands are read as signed or as unsigned. -/
theorem mul128_eq_ofInt (a b : U128) : mul128 a b = BitVec.ofInt 128 (a.toInt * b.toInt) := by
  rw [BitVec.ofInt_mul, BitVec.ofInt_toInt, BitVec.ofInt_toInt, mul128]

theorem mul128_allOnes_left (b : U128) : mul128 (BitVec.allOnes 128) b = -b := by
  rw [mul128, ← BitVec.neg_one_eq_allOnes, BitVec.neg_mul, BitVec.one_mul]

theorem add128_allOnes_right (a : U128) : add128 a (BitVec.allOnes 128) = a - 1 := by
  rw [add128, ← BitVec.neg_one_eq_allOnes]
  exact (BitVec.sub_eq_add_neg a 1).symm

/-- A factor `2^k` moves the low `128 - k` bits up by `k` and drops the others. -/
theorem mul128_two_pow_left {k : Nat} (hk : k ≤ 128) (b : U128) :
    (mul128 (BitVec.ofNat 128 (2 ^ k)) b).toNat = 2 ^ k * (b.toNat % 2 ^ (128 - k)) := by
  rw [mul128_toNat, BitVec.toNat_ofNat, Nat.mod_mul_mod, ← Nat.mul_mod_mul_left, ← Nat.pow_add,
    Nat.add_sub_cancel' hk]

theorem multiplierInv_mul_multiplier : Config.multiplierInv * Config.multiplier = 1#128 := by decide

theorem lcgInv_lcg (x : U128) : lcgInv (lcg x) = x := by
  rw [lcgInv, lcg, mul128, mul128, sub128, add128, add_sub_cancel_left, ← BitVec.mul_assoc,
    multiplierInv_mul_multiplier, BitVec.one_mul]

theorem lcg_lcgInv (y : U128) : lcg (lcgInv y) = y := by
  rw [lcgInv, lcg, mul128, mul128, sub128, add128, ← BitVec.mul_assoc,
    BitVec.mul_comm Config.multiplier, multiplierInv_mul_multiplier, BitVec.one_mul, add_sub_cancel]

theorem lcg_injective : Function.Injective lcg := Function.LeftInverse.injective lcgInv_lcg

theorem lcg_eq_iff {x y : U128} : lcg x = y ↔ x = lcgInv y :=
  ⟨fun h => by rw [← h, lcgInv_lcg], fun h => by rw [h, lcg_lcgInv]⟩

/-- Two words have the same low `n + 1` bits exactly when they agree at every bit up to `n`. -/
theorem setWidth_succ_eq_iff {w n : Nat} {x y : BitVec w} :
    x.setWidth (n + 1) = y.setWidth (n + 1) ↔ ∀ i, i ≤ n → x.getLsbD i = y.getLsbD i := by
  constructor
  · intro h i hi
    simpa [Nat.lt_succ_of_le hi] using congrArg (BitVec.getLsbD · i) h
  · intro h
    apply BitVec.eq_of_getLsbD_eq
    intro i hi
    rw [BitVec.getLsbD_setWidth, BitVec.getLsbD_setWidth, h i (Nat.le_of_lt_succ hi)]

/-- The low `k` bits of the stepped state are a function of the low `k` bits of the state. -/
theorem setWidth_lcg {k : Nat} (hk : k ≤ 128) (x : U128) :
    (lcg x).setWidth k =
      Config.increment.setWidth k + Config.multiplier.setWidth k * x.setWidth k := by
  rw [lcg, add128, mul128, BitVec.setWidth_add _ _ hk, BitVec.setWidth_mul _ _ hk]

end Sys2Proof.Machine

/-! Orbits of an injective map of words (`40_step_mad.md` rule R60). -/

namespace Sys2Proof.Machine

/-- No state of an injective map lies on a tail. The width is a variable, so nothing can enumerate the
words. -/
theorem exists_iterate_eq_self_of_injective {w : Nat} {f : BitVec w → BitVec w}
    (hf : Function.Injective f) (x : BitVec w) : ∃ k, 0 < k ∧ k ≤ 2 ^ w ∧ f^[k] x = x := by
  have card : Fintype.card (BitVec w) = 2 ^ w := FinEnum.card_eq_fintypeCard.symm
  exact ⟨Function.minimalPeriod f x,
    Function.minimalPeriod_pos_of_mem_periodicPts (hf.mem_periodicPts x),
    card ▸ Function.minimalPeriod_le_card, Function.iterate_minimalPeriod⟩

end Sys2Proof.Machine

/-! The double-word form of the step (`40_step_mad.md` rule R56): each word of the form as a natural
number. -/

namespace Sys2Proof.Machine

/-- A product of two words is exact in twice their width. -/
theorem toNat_setWidth_mul_setWidth {m n : Nat} (h : m + m ≤ n) (u v : BitVec m) :
    (u.setWidth n * v.setWidth n).toNat = u.toNat * v.toNat := by
  have hm : m ≤ n := Nat.le_of_add_right_le h
  have hlt : u.toNat * v.toNat < 2 ^ n :=
    calc u.toNat * v.toNat < 2 ^ m * 2 ^ m := Nat.mul_lt_mul'' u.isLt v.isLt
      _ = 2 ^ (m + m) := (Nat.pow_add 2 m m).symm
      _ ≤ 2 ^ n := Nat.pow_le_pow_right Nat.two_pos h
  rw [← BitVec.toNat_setWidth_of_le hm (b := u), ← BitVec.toNat_setWidth_of_le hm (b := v)] at hlt ⊢
  exact BitVec.toNat_mul_of_lt hlt

theorem mul64Exact_toNat (a b : U64) : (mul64Exact a b).toNat = a.toNat * b.toNat := by
  rw [mul64Exact, zext128, zext128, toNat_setWidth_mul_setWidth (by decide)]

theorem madP0_toNat (x : U128) :
    (madP0 x).toNat = (x.toNat % 2 ^ 64) * (Config.multiplier.toNat % 2 ^ 64) := by
  rw [madP0, mul64Exact_toNat, lowWord_toNat, lowWord_toNat]

theorem madCross_toNat (x : U128) : (madCross x).toNat =
    ((x.toNat / 2 ^ 64) * (Config.multiplier.toNat % 2 ^ 64) +
      (x.toNat % 2 ^ 64) * (Config.multiplier.toNat / 2 ^ 64)) % 2 ^ 64 := by
  rw [madCross, BitVec.toNat_add, BitVec.toNat_mul, BitVec.toNat_mul, ← Nat.add_mod, highWord_toNat,
    highWord_toNat, lowWord_toNat, lowWord_toNat]

theorem madPh_toNat (x : U128) :
    (madPh x).toNat = ((madP0 x).toNat / 2 ^ 64 + (madCross x).toNat) % 2 ^ 64 := by
  rw [madPh, BitVec.toNat_add, highWord_toNat]

theorem madPl_toNat (x : U128) : (madPl x).toNat = (madP0 x).toNat % 2 ^ 64 := lowWord_toNat _

/-- The sum of the low words is exact in 65 bits. -/
theorem madSum_toNat (x : U128) :
    (madSum x).toNat = (madPl x).toNat + Config.increment.toNat % 2 ^ 64 := by
  have := (madPl x).isLt
  rw [madSum, BitVec.toNat_add, BitVec.toNat_setWidth, BitVec.toNat_setWidth, lowWord_toNat]
  omega

theorem madLo_toNat (x : U128) : (madLo x).toNat = (madSum x).toNat % 2 ^ 64 := by
  rw [madLo, BitVec.extractLsb'_toNat, Nat.shiftRight_zero]

theorem madCarry_toNat (x : U128) : (madCarry x).toNat = (madSum x).toNat / 2 ^ 64 := by
  have := (madSum x).isLt
  rw [madCarry, BitVec.extractLsb'_toNat, Nat.shiftRight_eq_div_pow]
  omega

theorem madHi_toNat (x : U128) : (madHi x).toNat =
    ((madPh x).toNat + Config.increment.toNat / 2 ^ 64 + (madCarry x).toNat) % 2 ^ 64 := by
  have := (madCarry x).isLt
  rw [madHi, BitVec.toNat_add, BitVec.toNat_add, BitVec.toNat_setWidth, highWord_toNat]
  omega

/-- The two words of the form are those of `p0 + 2^64 * cross + INCREMENT`, which differs from
`x * MULTIPLIER + INCREMENT` by the product of the high words, a multiple of `2^128`. -/
theorem lcgDoubleWord_eq_lcg (x : U128) : lcgDoubleWord x = lcg x := by
  apply BitVec.eq_of_toNat_eq
  rw [lcgDoubleWord, toNat_append_eq_mul_add, lcg_toNat, madHi_toNat, madPh_toNat, madCarry_toNat,
    madLo_toNat, madSum_toNat, madPl_toNat, madCross_toNat, madP0_toNat, multiplier_toNat,
    increment_toNat]
  omega

/-- A word is its 32-bit halves side by side. -/
theorem toNat_eq_halves (a : U64) :
    a.toNat = (a.extractLsb' 32 32).toNat * 2 ^ 32 + (a.extractLsb' 0 32).toNat := by
  have := a.isLt
  rw [BitVec.extractLsb'_toNat, BitVec.extractLsb'_toNat, Nat.shiftRight_zero,
    Nat.shiftRight_eq_div_pow]
  omega

/-- The four partial products, each exact and at its place, are the product of the words multiplied
out. -/
theorem mul64From32_eq_mul64Exact (a b : U64) : mul64From32 a b = mul64Exact a b := by
  have part (u v : BitVec 32) :
      (zext128 (u.setWidth 64 * v.setWidth 64)).toNat = u.toNat * v.toNat := by
    rw [zext128_toNat, toNat_setWidth_mul_setWidth (by decide)]
  have multipliedOut (a₁ a₀ b₁ b₀ : Nat) : (a₁ * 2 ^ 32 + a₀) * (b₁ * 2 ^ 32 + b₀) =
      a₀ * b₀ + (a₀ * b₁ + a₁ * b₀) * 2 ^ 32 + a₁ * b₁ * 2 ^ 64 := by ring
  apply BitVec.eq_of_toNat_eq
  rw [← Nat.mod_eq_of_lt (mul64Exact a b).isLt, mul64Exact_toNat, toNat_eq_halves a, toNat_eq_halves b,
    multipliedOut]
  simp only [mul64From32, BitVec.toNat_add, BitVec.toNat_shiftLeft, Nat.shiftLeft_eq, part,
    Nat.mod_add_mod, Nat.add_mod_mod, Nat.mod_mul_mod]

end Sys2Proof.Machine

/-! The statements of the family `40_step_mad.md`. -/

namespace Sys2Proof.Proofs

open Sys2Proof Sys2Proof.Machine

/-- Settles O9: the double-word form word by word as a natural number, the 32-bit form multiplied
out. -/
theorem doubleWordStepIsTheStep : Obligations.DoubleWordStepIsTheStep :=
  ⟨lcgDoubleWord_eq_lcg, mul64Exact_toNat, mul64From32_eq_mul64Exact⟩

/-- Settles O7: `2^128 - 1` is `-1`, and a factor `2^k` is a shift. -/
theorem wrappingMultiplication : Obligations.WrappingMultiplication := by
  refine ⟨mul128_toNat, mul128_eq_ofInt, ?zeroOne, ?minusOne, ?topBit, ?highWord, by decide, by decide⟩
  case zeroOne => exact fun b => ⟨BitVec.zero_mul, BitVec.one_mul b⟩
  case minusOne =>
    intro b
    rw [mul128_allOnes_left, BitVec.toNat_neg]
  case topBit =>
    intro b
    rw [mul128_two_pow_left (by decide)]
    split <;> omega
  case highWord =>
    intro b
    rw [mul128_two_pow_left (by decide), lowWord_toNat, Nat.mul_comm]

/-- Settles O10: the inverse map undoes the multiplication and the addition, and it takes 0 to the one
state that steps to 0. -/
theorem stepIsABijection : Obligations.StepIsABijection := by
  have preimage : lcgInv 0 = 0xDBA7208509DC6FBCF24B0FFAC22AB37D#128 := by decide
  exact ⟨lcgInv_lcg, lcg_lcgInv, fun x => preimage ▸ lcg_eq_iff⟩

/-- Settles O11: bit `n` is the top one of the low `n + 1` bits, and `setWidth_lcg` takes those from
the low `n + 1` bits of the state; above bit 127 there is nothing to compare. -/
theorem stepLowBitsFromLowBits : Obligations.StepLowBitsFromLowBits := by
  intro n x y h
  obtain hn | hn := Nat.lt_or_ge n 128
  · have low : x.setWidth (n + 1) = y.setWidth (n + 1) := setWidth_succ_eq_iff.mpr h
    have stepped : (lcg x).setWidth (n + 1) = (lcg y).setWidth (n + 1) := by
      rw [setWidth_lcg hn, setWidth_lcg hn, low]
    exact setWidth_succ_eq_iff.mp stepped n le_rfl
  · rw [BitVec.getLsbD_of_ge _ _ hn, BitVec.getLsbD_of_ge _ _ hn]

/-- Settles O12: the step is injective on finitely many states. -/
theorem stepOrbitsArePurelyPeriodic : Obligations.StepOrbitsArePurelyPeriodic :=
  exists_iterate_eq_self_of_injective lcg_injective

/-- Settles O6: `lcg_toNat` at the constants, and the two operations commute. -/
theorem stepIsModularAffine : Obligations.StepIsModularAffine := by
  refine ⟨?reducedOnce, ?wrapping, by decide⟩
  case reducedOnce =>
    intro x
    rw [lcg_toNat, multiplier_toNat, increment_toNat]
  case wrapping =>
    intro x
    rw [lcg, add128_comm, mul128_comm, Config.multiplier, Config.increment]

/-- Settles O8: `2^128 - 1` is `-1`, so adding it subtracts 1. -/
theorem wrappingAddition : Obligations.WrappingAddition :=
  ⟨add128_toNat, BitVec.add_zero, add128_allOnes_right, by decide, by decide, by decide⟩

end Sys2Proof.Proofs

/-! Sequences of commands as one update of the block (`20_memory.md` rule R30): `execAll` is the fold of
`transactCommand` over the commands. -/

namespace Sys2Proof.Machine

/-- The block state after a sequence of commands and their responses, oldest first: `runActions` of rule
R104 without its `Reset`s. -/
def transactAll : List Instr → Option U128 → Option U128 × List Response
  | [], b => (b, [])
  | i :: is, b =>
    ((transactAll is (transactCommand i b).1).1,
      (transactCommand i b).2 :: (transactAll is (transactCommand i b).1).2)

/-- Every sequence of commands completes, and block and responses are those of `transactAll`. -/
theorem exists_execAll_next (cs : List Instr) (s : State) :
    ∃ t, execAll cs s = .next t ∧ blockOf t = (transactAll cs (blockOf s)).1 ∧
      t.responses = s.responses ++ (transactAll cs (blockOf s)).2 := by
  induction cs generalizing s with
  | nil => exact ⟨s, rfl, rfl, (List.append_nil _).symm⟩
  | cons i is ih =>
    obtain ⟨t, hexec, hblock, hresp⟩ := ih (giveResponse (transactCommand i (blockOf s)).2
      (writeBlock (transactCommand i (blockOf s)).1 s))
    refine ⟨t, ?_, ?_, ?_⟩
    · rw [execAll, exec_eq]; exact hexec
    · simpa [transactAll] using hblock
    · simpa [transactAll] using hresp

/-- One response per command (`30_encoding.md` rule R42). -/
theorem length_transactAll (cs : List Instr) (b : Option U128) :
    (transactAll cs b).2.length = cs.length := by
  induction cs generalizing b with
  | nil => rfl
  | cons i is ih => exact congrArg Nat.succ (ih _)

/-- No command unseeds the block (`10_state.md` rule R18). -/
theorem isSome_transactAll {b : Option U128} (hb : b.isSome = true) (cs : List Instr) :
    (transactAll cs b).1.isSome = true := by
  induction cs generalizing b with
  | nil => exact hb
  | cons i is ih => exact ih (by rw [isSome_transactCommand, hb, Bool.true_or])

/-- `41_seed.md` rule R63: what a `SEED` finds in the block has no influence, then or later. -/
theorem transactAll_seed_cons (v : U128) (cs : List Instr) (b : Option U128) :
    transactAll (.seed v :: cs) b =
      ((transactAll cs (some (seedfn v))).1, okResponse 0 :: (transactAll cs (some (seedfn v))).2) := rfl

theorem blockOf_eq_some_iff {s : State} {x : U128} :
    blockOf s = some x ↔ s.seeded = true ∧ s.state = x := by
  simp [blockOf]

end Sys2Proof.Machine

/-! The seeding function (`41_seed.md` rule R62). -/

namespace Sys2Proof.Machine

theorem lcg_zero : lcg 0 = Config.increment := by decide

theorem lcg_bijective : Function.Bijective lcg :=
  Function.bijective_iff_has_inverse.mpr ⟨lcgInv, lcgInv_lcg, lcg_lcgInv⟩

theorem add128_left_bijective (a : U128) : Function.Bijective (add128 a) :=
  AddGroup.addLeft_bijective a

theorem seedfn_bijective : Function.Bijective seedfn :=
  lcg_bijective.comp (add128_left_bijective (lcg 0))

theorem seedfn_toNat (s : U128) : (seedfn s).toNat =
    ((Config.increment.toNat + s.toNat) * Config.multiplier.toNat + Config.increment.toNat) % 2 ^ 128 := by
  rw [seedfn, lcg_toNat, add128_toNat, lcg_zero, Nat.add_mod, Nat.mod_mul_mod, ← Nat.add_mod]

/-- The multiplier is 1 modulo 4 and the increment odd, so modulo 4 seeding adds 2. -/
theorem seedfn_ne_self (s : U128) : seedfn s ≠ s := by
  intro h
  have hs := congrArg BitVec.toNat h
  rw [seedfn_toNat, multiplier_toNat, increment_toNat] at hs
  omega

/-- The seed adder adds a value other than 0 before the second step. -/
theorem seedfn_ne_lcg (s : U128) : seedfn s ≠ lcg s := by
  intro h
  have hs : add128 (lcg 0) s = s := lcg_injective h
  rw [add128, add_eq_right, lcg_zero] at hs
  exact absurd hs (by decide)

theorem seedfn_eq_iff_of_eq {c y : U128} (h : seedfn c = y) (s : U128) : seedfn s = y ↔ s = c := by
  rw [← h, seedfn_bijective.injective.eq_iff]

end Sys2Proof.Machine

/-! Which micro-operation and which port event raise `SEEDED` (`41_seed.md` rule R64). -/

namespace Sys2Proof.Machine

theorem runMicro_seeded_of_ne_mark {m : MicroOp} (hm : m ≠ .mark) (e : Engine) :
    (runMicro m e).core.seeded = e.core.seeded := by
  cases m with
  | mark => exact absurd rfl hm
  | clr => rfl
  | step => rfl
  | adds s => rfl
  | load v => rfl
  | extract => rfl
  | read => rfl

/-- To the engine a tick does nothing, or the next micro-operation of the command in flight. -/
theorem portTick_engine_cases {p q : Port} (h : portTick p = .next q) :
    q.engine = p.engine ∨
      ∃ i m ms, p.phase = .busy i (m :: ms) ∧ q.engine = runMicro m p.engine := by
  unfold portTick at h
  split at h
  next => exact .inl (by rw [← Host.Outcome.next.inj h])
  next i m ms hp => exact .inr ⟨i, m, ms, hp, by rw [← Host.Outcome.next.inj h]⟩
  next => exact .inl (by rw [← Host.Outcome.next.inj h])
  next => exact .inl (by rw [← Host.Outcome.next.inj h])

/-- Of the other events a reset clears the flag and the rest leave it as it is. -/
theorem portEvent_seeded_of_ne_tick {e : PortEvent} {p q : Port} (h : portEvent e p = .next q)
    (he : e ≠ .tick) :
    q.engine.core.seeded = false ∨ q.engine.core.seeded = p.engine.core.seeded := by
  cases e with
  | offer w => exact .inr (by rw [portOffer_cases h])
  | withdraw => exact .inr (by rw [portWithdraw_cases h])
  | accept =>
    obtain ⟨w, -, -, rfl⟩ := portAccept_cases h
    exact .inr rfl
  | tick => exact absurd rfl he
  | transfer =>
    obtain ⟨r, -, rfl⟩ := portTransfer_cases h
    exact .inr rfl
  | rst => exact .inl (by rw [← Host.Outcome.next.inj h]; rfl)

end Sys2Proof.Machine

/-! The statements of the family `41_seed.md`. -/

namespace Sys2Proof.Proofs

open Sys2Proof Sys2Proof.Machine

/-- Settles O41: a command's effect and response depend on the block alone (`exists_execAll_next`), and
after `SEED v` both blocks hold `seedfn v`. -/
theorem reseedEquivalence : Obligations.ReseedEquivalence := by
  intro s s' v cs
  obtain ⟨t, ht, hblock, hresp⟩ := exists_execAll_next (.seed v :: cs) s
  obtain ⟨t', ht', hblock', hresp'⟩ := exists_execAll_next (.seed v :: cs) s'
  rw [transactAll_seed_cons] at hblock hresp hblock' hresp'
  obtain ⟨x, hx⟩ := Option.isSome_iff_exists.mp (isSome_transactAll (b := some (seedfn v)) rfl cs)
  obtain ⟨hseeded, hstate⟩ := blockOf_eq_some_iff.mp (hblock.trans hx)
  obtain ⟨hseeded', hstate'⟩ := blockOf_eq_some_iff.mp (hblock'.trans hx)
  exact ⟨t, t', _, ht, ht', hresp, hresp', congrArg Nat.succ (length_transactAll cs _),
    hstate'.trans hstate.symm, hseeded', hseeded⟩

/-- Settles O13: seeding is the step after an addition after the step, each of them a bijection; modulo 4
it moves every seed. -/
theorem seedingFunction : Obligations.SeedingFunction := by
  refine ⟨fun _ => rfl, ?closedForm, seedfn_bijective, fun s => ⟨seedfn_ne_self s, seedfn_ne_lcg s⟩,
    by decide, by decide, by decide⟩
  case closedForm =>
    intro s
    rw [seedfn_toNat, multiplier_toNat, increment_toNat]

/-- Settles O18: the next state is `respond_mark_writeState`, and a seed with a given seeded state is the
only one, seeding being injective. -/
theorem seedCommand : Obligations.SeedCommand := by
  refine ⟨fun v => toNat_encode (.seed v), fun v s => respond_mark_writeState 0 (seedfn v) s, ?idempotent,
    by decide, by decide, seedfn_eq_iff_of_eq (by decide), seedfn_eq_iff_of_eq (by decide), by decide,
    by decide, by decide⟩
  case idempotent =>
    intro v s t u ht hu
    have hkept : (transactCommand (.seed v) (blockOf t)).1 = blockOf t := (exec_blockOf ht).symm
    rw [exec_eq_giveResponse hkept, Host.Outcome.next.injEq] at hu
    subst hu
    exact ⟨rfl, rfl⟩

/-- Settles O50: no event but a tick raises the flag (`portEvent_seeded_of_ne_tick`), and of what a tick
can run (`portTick_engine_cases`) only `MARK` does. -/
theorem seededRisesOnlyAtMark : Obligations.SeededRisesOnlyAtMark := by
  intro e p q h hp hq
  have raised : q.engine.core.seeded ≠ p.engine.core.seeded := by simp [hp, hq]
  by_cases he : e = .tick
  case neg =>
    rcases portEvent_seeded_of_ne_tick h he with hclear | hkept
    · cases hq.symm.trans hclear
    · exact absurd hkept raised
  case pos =>
    subst he
    rcases portTick_engine_cases h with hkept | ⟨i, m, ms, hphase, hrun⟩
    · exact absurd (by rw [hkept]) raised
    · have hm : m = .mark := by
        by_contra hne
        exact raised (by rw [hrun, runMicro_seeded_of_ne_mark hne])
      exact ⟨rfl, i, ms, hm ▸ hphase⟩

end Sys2Proof.Proofs

/-! Draws (`42_draw_permute.md` rules R71 to R73): a run of `NEXT` on the block, and two instances that
agree on the block. -/

namespace Sys2Proof.Machine

theorem transactAll_replicate_next (k : Nat) (x : U128) :
    transactAll (List.replicate k .next) (some x) =
      (some (lcg^[k] x),
        (List.range k).map fun j => okResponse (zext128 (perm (lcg^[j + 1] x)))) := by
  induction k generalizing x with
  | zero => rfl
  | succ k ih =>
    rw [List.replicate_succ, transactAll, transactCommand, ih, List.range_succ_eq_map, List.map_cons,
      List.map_map]
    rfl

theorem blockOf_congr {s s' : State} (hstate : s'.state = s.state) (hseeded : s'.seeded = s.seeded) :
    blockOf s' = blockOf s := by
  rw [blockOf, blockOf, hstate, hseeded]

theorem execAll_cons (i : Instr) (is : List Instr) (s : State) :
    execAll (i :: is) s = execAll is (giveResponse (transactCommand i (blockOf s)).2
      (writeBlock (transactCommand i (blockOf s)).1 s)) := by
  rw [execAll, exec_eq]

end Sys2Proof.Machine

/-! The output permutation bit by bit (`42_draw_permute.md` rules R67 to R69). -/

namespace Sys2Proof.Machine

/-- Bit `i` of the rotated word, for both shifts at once: the right shift gives the bits below `64 - r`,
the left shift the others. -/
theorem getLsbD_rotr64 (m : U64) (r : U6) {i : Nat} (hi : i < 64) :
    (rotr64 m r).getLsbD i = m.getLsbD ((i + r.toNat) % 64) := by
  have hr : r.toNat < 64 := r.isLt
  rw [rotr64, BitVec.getLsbD_or, BitVec.getLsbD_ushiftRight, BitVec.getLsbD_shiftLeft]
  obtain low | high := Nat.lt_or_ge (i + r.toNat) 64
  · rw [Nat.mod_eq_of_lt low, Nat.add_comm i]
    simp [show i < 64 - r.toNat by omega]
  · rw [show (i + r.toNat) % 64 = i - (64 - r.toNat) by omega,
      BitVec.getLsbD_of_ge m _ (Nat.add_comm i _ ▸ high)]
    simp [hi, show ¬ i < 64 - r.toNat by omega]

theorem rotr64_eq_rotateLeft (m : U64) (r : U6) :
    rotr64 m r = m.rotateLeft ((64 - r.toNat) % 64) := by
  have hr : r.toNat < 64 := r.isLt
  apply BitVec.eq_of_getLsbD_eq
  intro i hi
  rw [getLsbD_rotr64 m r hi, BitVec.getLsbD_rotateLeft, Nat.mod_mod]
  by_cases low : i < (64 - r.toNat) % 64
  · rw [show (i + r.toNat) % 64 = 64 - (64 - r.toNat) % 64 + i by omega]
    simp [low]
  · rw [show (i + r.toNat) % 64 = i - (64 - r.toNat) % 64 by omega]
    simp [low, hi]

/-- The two shifts of the rotation have no bit in common, also at amount 0, where the left shift is by
64. -/
theorem ushiftRight_and_shiftLeft_eq_zero (m : U64) (r : Nat) :
    (m >>> r) &&& (m <<< (64 - r)) = 0 := by
  apply BitVec.eq_of_getLsbD_eq
  intro i hi
  rw [BitVec.getLsbD_and, BitVec.getLsbD_ushiftRight, BitVec.getLsbD_shiftLeft]
  by_cases high : 64 ≤ r + i
  · simp [BitVec.getLsbD_of_ge m _ high]
  · simp [show i < 64 - r by omega]

theorem or_eq_xor_of_and_eq_zero {w : Nat} {x y : BitVec w} (h : x &&& y = 0) : x ||| y = x ^^^ y := by
  apply BitVec.eq_of_getLsbD_eq
  intro i _
  have disjoint : (x.getLsbD i && y.getLsbD i) = false := by
    rw [← BitVec.getLsbD_and, h]
    exact BitVec.getLsbD_zero
  have or_eq_xor : ∀ a b : Bool, (a && b) = false → (a || b) = (a ^^ b) := by decide
  rw [BitVec.getLsbD_or, BitVec.getLsbD_xor, or_eq_xor _ _ disjoint]

/-- Adding `r` modulo `n` runs through the indices below `n` in another order. -/
theorem map_add_mod_range_perm (n r : Nat) :
    ((List.range n).map fun i => (i + r) % n).Perm (List.range n) := by
  have rotated : (List.range n).rotate r = (List.range n).map fun i => (i + r) % n := by
    apply List.ext_getElem (by simp)
    intro i _ _
    simp [List.getElem_rotate]
  exact rotated ▸ List.rotate_perm _ _

/-- A rotation loses no bit. -/
theorem countP_rotr64 (m : U64) (r : U6) :
    (List.range 64).countP (fun i => (rotr64 m r).getLsbD i) =
      (List.range 64).countP (fun i => m.getLsbD i) := by
  calc (List.range 64).countP (fun i => (rotr64 m r).getLsbD i)
    _ = (List.range 64).countP (fun i => m.getLsbD ((i + r.toNat) % 64)) :=
        List.countP_congr fun i hi => by rw [getLsbD_rotr64 m r (List.mem_range.mp hi)]
    _ = ((List.range 64).map fun i => (i + r.toNat) % 64).countP (fun i => m.getLsbD i) :=
        List.countP_map.symm
    _ = (List.range 64).countP (fun i => m.getLsbD i) := (map_add_mod_range_perm 64 r.toNat).countP_eq _

theorem rotr64_zero_right (m : U64) : rotr64 m 0 = m := by
  apply BitVec.eq_of_getLsbD_eq
  intro i hi
  rw [getLsbD_rotr64 m 0 hi]
  simp [Nat.mod_eq_of_lt hi]

theorem rotr64_zero_left (r : U6) : rotr64 0 r = 0 := by
  simp [rotr64]

theorem rotr64_allOnes (r : U6) : rotr64 (BitVec.allOnes 64) r = BitVec.allOnes 64 := by
  apply BitVec.eq_of_getLsbD_eq
  intro i hi
  have hmod : (i + r.toNat) % 64 < 64 := Nat.mod_lt _ (by decide)
  rw [getLsbD_rotr64 _ r hi, BitVec.getLsbD_allOnes, BitVec.getLsbD_allOnes]
  simp [hi, hmod]

theorem getLsbD_xorFold (x : U128) {i : Nat} (hi : i < 64) :
    (xorFold x).getLsbD i = (x.getLsbD (64 + i) ^^ x.getLsbD i) := by
  rw [xorFold, BitVec.getLsbD_xor, highWord, lowWord, BitVec.getLsbD_extractLsb',
    BitVec.getLsbD_extractLsb', Nat.zero_add, decide_eq_true hi, Bool.true_and, Bool.true_and]

theorem rotAmount_toNat (x : U128) : (rotAmount x).toNat = (highWord x).toNat / 2 ^ 58 := by
  have := (highWord x).isLt
  rw [rotAmount, BitVec.extractLsb'_toNat, Nat.shiftRight_eq_div_pow]; omega

theorem rotAmount_toNat_eq_div (x : U128) : (rotAmount x).toNat = x.toNat / 2 ^ 122 := by
  rw [rotAmount_toNat, highWord_toNat, Nat.div_div_eq_div_mul, ← Nat.pow_add]

theorem rotAmount_eq_extractLsb' (x : U128) : rotAmount x = x.extractLsb' 122 6 := by
  apply BitVec.eq_of_toNat_eq
  rw [rotAmount_toNat_eq_div]
  have := x.isLt
  rw [BitVec.extractLsb'_toNat, Nat.shiftRight_eq_div_pow]; omega

theorem getLsbD_perm (x : U128) {i : Nat} (hi : i < 64) :
    (perm x).getLsbD i = (x.getLsbD (64 + (i + x.toNat / 2 ^ 122) % 64) ^^
      x.getLsbD ((i + x.toNat / 2 ^ 122) % 64)) := by
  rw [perm, getLsbD_rotr64 _ _ hi, rotAmount_toNat_eq_div,
    getLsbD_xorFold x (Nat.mod_lt _ (by decide))]

end Sys2Proof.Machine

/-! The statements of the family `42_draw_permute.md`. -/

namespace Sys2Proof.Proofs

open Sys2Proof Sys2Proof.Machine

/-- Settles O40: after `SEED v` the block holds `seedfn v`, and by induction on their number the draws
answer with the permuted iterates of the step (`transactAll_replicate_next`). -/
theorem drawSequence : Obligations.DrawSequence := by
  intro s v k
  obtain ⟨t, ht, hblock, hresp⟩ := exists_execAll_next (.seed v :: List.replicate k .next) s
  rw [transactAll_seed_cons, transactAll_replicate_next] at hblock hresp
  obtain ⟨hseeded, hstate⟩ := blockOf_eq_some_iff.mp hblock
  exact ⟨t, ht, hseeded, hstate, hresp⟩

/-- Settles O14: by the bits of the rotated word (`getLsbD_rotr64`), and because its two shifts have no
bit in common. -/
theorem rotateRightByBitIndex : Obligations.RotateRightByBitIndex := by
  refine ⟨fun m r _ => getLsbD_rotr64 m r, rotr64_zero_right, rotr64_eq_rotateLeft, ?shifts, countP_rotr64,
    fun r => ⟨rotr64_zero_left r, rotr64_allOnes r⟩, by decide, by decide⟩
  case shifts =>
    intro m r _
    have disjoint := ushiftRight_and_shiftLeft_eq_zero m r.toNat
    exact ⟨disjoint, rfl, or_eq_xor_of_and_eq_zero disjoint,
      (BitVec.add_eq_or_of_and_eq_zero _ _ disjoint).symm⟩

/-- Settles O15: the folded word bit by bit, read through the rotation. -/
theorem outputPermutation : Obligations.OutputPermutation :=
  ⟨fun x => ⟨lowWord_toNat x, highWord_toNat x, rotAmount_toNat x, rfl⟩, fun x _ => getLsbD_perm x,
    by decide, by decide, by decide⟩

/-- Settles O16: each reading is the quotient by a power of 2. -/
theorem rotateAmountReadings : Obligations.RotateAmountReadings := by
  intro x
  have reading : (rotAmount x).toNat = (x >>> 122).toNat := by
    rw [rotAmount_toNat_eq_div, BitVec.toNat_ushiftRight, Nat.shiftRight_eq_div_pow]
  refine ⟨reading, ?_, reading ▸ (rotAmount x).isLt, rotAmount_eq_extractLsb' x⟩
  rw [rotAmount_toNat, BitVec.toNat_ushiftRight, Nat.shiftRight_eq_div_pow]

/-- Settles O19: the check decides between the draw and the error; the permutation's corner cases are
those of the rotation. -/
theorem nextCommand : Obligations.NextCommand := by
  refine ⟨rfl, fun _ => decode_of_op00, fun _ => exec_next_of_seeded, ?unseeded, ?stepsToZero, by decide,
    ?equalWords, ?noRotation, ?leftByOne, ⟨0, BitVec.allOnes 128, by decide, by decide⟩, by decide,
    by decide⟩
  case unseeded =>
    intro s hs
    rw [exec_of_unseeded rfl hs, raise_eq]
  case stepsToZero =>
    obtain ⟨-, -, preimageOfZero⟩ := stepIsABijection
    exact preimageOfZero
  case equalWords =>
    intro x h
    rw [perm, xorFold, h, BitVec.xor_self]
    exact rotr64_zero_left _
  case noRotation =>
    intro x h
    rw [perm, h, rotr64_zero_right, xorFold]
  case leftByOne =>
    intro x h
    rw [perm, h, rotr64_eq_rotateLeft]
    rfl

/-- Settles O39: by induction on the commands; each does to both instances what `transactCommand` says of
their common block. -/
theorem responsesDependOnBlockOnly : Obligations.ResponsesDependOnBlockOnly := by
  intro cs
  induction cs with
  | nil =>
    exact fun s s' hstate hseeded => ⟨s, s', [], rfl, rfl, by simp, by simp, rfl, hstate, hseeded⟩
  | cons i is ih =>
    intro s s' hstate hseeded
    rw [execAll_cons, execAll_cons, blockOf_congr hstate hseeded]
    generalize transactCommand i (blockOf s) = done
    obtain ⟨t, t', rs, ht, ht', hresp, hresp', hlen, hstates, hflags⟩ :=
      ih (giveResponse done.2 (writeBlock done.1 s)) (giveResponse done.2 (writeBlock done.1 s'))
        (by simp [hstate]) rfl
    exact ⟨t, t', done.2 :: rs, ht, ht', by simp [hresp], by simp [hresp'], congrArg Nat.succ hlen,
      hstates, hflags⟩

/-- Settles O17: the states are closed, so the permutation runs. -/
theorem permutationCornerValues : Obligations.PermutationCornerValues := by
  unfold Obligations.PermutationCornerValues
  decide

/-- Settles O43: both commands answer from the block that the step leaves. -/
theorem outputIsFromStateLeftBehind : Obligations.OutputIsFromStateLeftBehind := by
  refine ⟨?seeded, by decide, by decide⟩
  intro s hs
  obtain ⟨t, ht, hblock, hresp⟩ := exists_execAll_next [.next, .getstate] s
  rw [blockOf_of_seeded hs] at hblock hresp
  obtain ⟨-, hstate⟩ := blockOf_eq_some_iff.mp hblock
  exact ⟨t, lcg s.state, ht, hstate, hresp⟩

end Sys2Proof.Proofs

/-! Raw state access (`43_state_access.md`): the two commands, and sequences of commands cut in two. -/

namespace Sys2Proof.Machine

theorem exec_getstate_of_seeded {s : State} (hs : s.seeded = true) :
    exec .getstate s = .next (giveResponse (okResponse s.state) s) :=
  whenSeeded_of_seeded hs _

/-- Whatever the flag, `GETSTATE` only adds a response. -/
theorem exists_exec_getstate (s : State) : ∃ r, exec .getstate s = .next (giveResponse r s) :=
  ⟨_, exec_eq_giveResponse (transactCommand_getstate_block _)⟩

theorem exec_setstate (v : U128) (s : State) :
    exec (.setstate v) s = .next (giveResponse (okResponse 0) (mark (writeState v s))) := rfl

theorem execAll_append {is : List Instr} {s t : State} (h : execAll is s = .next t) (js : List Instr) :
    execAll (is ++ js) s = execAll js t := by
  induction is generalizing s with
  | nil => rw [execAll, Host.Outcome.next.injEq] at h; rw [h, List.nil_append]
  | cons i is ih => rw [execAll_cons] at h; rw [List.cons_append, execAll_cons, ih h]

/-- A draw right after `SETSTATE v` steps `v` itself, without the scrambling of a seed. -/
theorem exists_execAll_setstate_next {v x d : U128} (hx : lcg v = x) (hd : zext128 (perm x) = d)
    (s : State) : ∃ t, execAll [.setstate v, .next] s = .next t ∧ t.state = x ∧
      t.responses = s.responses ++ [okResponse 0, okResponse d] := by
  subst hx hd
  obtain ⟨t, ht, hblock, hresp⟩ := exists_execAll_next [.setstate v, .next] s
  obtain ⟨-, hstate⟩ := blockOf_eq_some_iff.mp hblock
  exact ⟨t, ht, hstate, hresp⟩

end Sys2Proof.Machine

/-! The statements of the family `43_state_access.md`. -/

namespace Sys2Proof.Proofs

open Sys2Proof Sys2Proof.Machine

/-- Settles O42: after the two commands both instances hold the same block, and responses depend on the
block alone (`responsesDependOnBlockOnly`). -/
theorem streamResumption : Obligations.StreamResumption := by
  intro a b ha
  refine ⟨a.state, _, _, exec_getstate_of_seeded ha, rfl, exec_setstate a.state b, fun cs => ?_⟩
  obtain ⟨t, u, rs, ht, hu, hresp, hresp', hlen, hstate, -⟩ :=
    responsesDependOnBlockOnly cs (giveResponse (okResponse a.state) a)
      (giveResponse (okResponse 0) (mark (writeState a.state b))) rfl ha.symm
  exact ⟨t, u, rs, ht, hu, hresp, hresp', hlen, hstate⟩

/-- Settles O20: the check decides between `STATE` and the error; the instance after a `GETSTATE` differs
from the one before it in the host's record only, which no later command reads. -/
theorem getstateCommand : Obligations.GetstateCommand := by
  refine ⟨by decide, fun _ => decode_of_op10, fun _ => exec_getstate_of_seeded, ?unseeded, ?afterSeed,
    ?afterNext, ?twice, ?anywhere, by decide⟩
  case unseeded =>
    intro s hs
    rw [exec_of_unseeded rfl hs, raise_eq]
  case afterSeed =>
    intro v s
    obtain ⟨t, ht, -, hresp⟩ := exists_execAll_next [.seed v, .getstate] s
    exact ⟨t, ht, hresp⟩
  case afterNext =>
    obtain ⟨readsStateLeft, -, -⟩ := outputIsFromStateLeftBehind
    intro s hs
    obtain ⟨t, _, ht, rfl, hresp⟩ := readsStateLeft s hs
    exact ⟨t, ht, hresp⟩
  case twice =>
    intro s hs
    obtain ⟨t, ht, -, hresp⟩ := exists_execAll_next [.getstate, .getstate] s
    rw [blockOf_of_seeded hs] at hresp
    exact ⟨t, ht, hresp⟩
  case anywhere =>
    intro pre post s
    obtain ⟨m, hm, -, hmresp⟩ := exists_execAll_next pre s
    obtain ⟨r, hr⟩ := exists_exec_getstate m
    obtain ⟨u, t, rs', hu, ht, huresp, htresp, hlen, hstate, hflag⟩ :=
      responsesDependOnBlockOnly post m (giveResponse r m) rfl rfl
    have withRead : execAll (pre ++ .getstate :: post) s = .next t := by
      rw [execAll_append hm, execAll, hr]
      exact ht
    have withoutRead : execAll (pre ++ post) s = .next u := (execAll_append hm post).trans hu
    exact ⟨t, u, _, rs', r, withRead, withoutRead, by simp [htresp, hmresp], by rw [huresp, hmresp],
      length_transactAll pre (blockOf s), hlen, hstate, hflag⟩

/-- Settles O21: the next state is `respond_mark_writeState`; the draws after it are those of
`exists_execAll_setstate_next`, run on closed values. -/
theorem setstateCommand : Obligations.SetstateCommand := by
  refine ⟨fun v => toNat_encode (.setstate v), fun v s => respond_mark_writeState 0 v s,
    exists_execAll_setstate_next (by decide) (by decide),
    exists_execAll_setstate_next (by decide) (by decide), ?workedExample, by decide, by decide⟩
  case workedExample =>
    intro s
    have output : zext128 (perm (lcg 0x15E8F17F807A3FD1C738143E57A1F635#128)) =
        17582746484101160380#128 := by decide
    obtain ⟨t, ht, -, hresp⟩ := exists_execAll_setstate_next rfl output s
    exact ⟨t, ht, hresp⟩

end Sys2Proof.Proofs

/-! The one exception (`60_exceptions.md`): which responses carry an error, and sequences of commands that
all fault or of which none does. -/

namespace Sys2Proof.Machine

theorem readsState_eq_true_iff {i : Instr} : readsState i = true ↔ i = .next ∨ i = .getstate := by
  cases i <;> simp [readsState]

/-- Rules R81 and R82: the check that precedes a read of `STATE` is the only source of an error. -/
theorem transactCommand_err (i : Instr) (b : Option U128) :
    (transactCommand i b).2.err = BitVec.ofBool (readsState i && b.isNone) := by
  cases i with
  | seed v => rfl
  | setstate v => rfl
  | next => cases b <;> rfl
  | getstate => cases b <;> rfl

theorem exists_okResponse_of_isSome {b : Option U128} (hb : b.isSome = true) (i : Instr) :
    ∃ d, (transactCommand i b).2 = okResponse d := by
  obtain ⟨x, rfl⟩ := Option.isSome_iff_exists.mp hb
  cases i with
  | next => exact ⟨_, rfl⟩
  | seed v => exact ⟨0, rfl⟩
  | getstate => exact ⟨x, rfl⟩
  | setstate v => exact ⟨0, rfl⟩

theorem transactCommand_of_setsSeeded {i : Instr} (hi : setsSeeded i = true) (b : Option U128) :
    ∃ v, transactCommand i b = (some v, okResponse 0) := by
  cases i with
  | seed v => exact ⟨seedfn v, rfl⟩
  | setstate v => exact ⟨v, rfl⟩
  | next => cases hi
  | getstate => cases hi

/-- The response that a command adds is the one rule R104 gives. -/
theorem exec_response {i : Instr} {s t : State} {r : Response} (h : exec i s = .next t)
    (hr : t.responses = s.responses ++ [r]) : r = (transactCommand i (blockOf s)).2 := by
  rw [exec_eq, Host.Outcome.next.injEq] at h
  simpa [← h] using hr.symm

/-- Rule R80: a seeded block stays seeded, so none of the commands is answered with an error. -/
theorem err_of_mem_transactAll {b : Option U128} (hb : b.isSome = true) {cs : List Instr} {r : Response}
    (hr : r ∈ (transactAll cs b).2) : r.err = 0 := by
  induction cs generalizing b with
  | nil => exact absurd hr List.not_mem_nil
  | cons i is ih =>
    rcases List.mem_cons.mp hr with rfl | hlater
    · obtain ⟨d, hd⟩ := exists_okResponse_of_isSome hb i
      rw [hd, okResponse_err]
    · exact ih (by rw [isSome_transactCommand, hb, Bool.true_or]) hlater

/-- Rule R84: commands that all fault leave the block unseeded, so each is answered like the first. -/
theorem execAll_of_unseeded {cs : List Instr} {s : State} (hs : s.seeded = false)
    (hcs : ∀ i ∈ cs, readsState i = true) :
    execAll cs s = .next { s with
      responses := s.responses ++ List.replicate cs.length { err := 1, data := 0 } } := by
  induction cs generalizing s with
  | nil => simp [execAll]
  | cons i is ih =>
    obtain ⟨hi, his⟩ := List.forall_mem_cons.mp hcs
    rw [execAll, exec_of_unseeded hi hs, raise_eq]
    simpa [List.replicate_succ] using
      ih (s := { s with responses := s.responses ++ [{ err := 1, data := 0 }] }) hs his

end Sys2Proof.Machine

/-! The statements of the family `60_exceptions.md`. -/

namespace Sys2Proof.Proofs

open Sys2Proof Sys2Proof.Machine

/-- Settles O23: the check raises `Unseeded`, and every command completes from the state that leaves. -/
theorem unseededIsAnswered : Obligations.UnseededIsAnswered := by
  have answered : ∀ (i : Instr) (s : State), readsState i = true → s.seeded = false →
      exec i s = .next { s with responses := s.responses ++ [{ err := 1, data := 0 }] } :=
    fun i s hi hs => (exec_of_unseeded hi hs).trans (raise_eq .unseeded s)
  refine ⟨answered, ?goesOn, by decide⟩
  case goesOn =>
    intro i j s hi hs
    exact ⟨_, _, _, answered i s hi hs, exec_eq j _, rfl, hs, List.append_assoc _ _ _⟩

/-- Settles O24: the response is that of `transactCommand`, whose `err` is the check's outcome
(`transactCommand_err`). -/
theorem onlyExceptionIsUnseeded : Obligations.OnlyExceptionIsUnseeded := by
  intro i s t r h hr
  cases exec_response h hr
  refine ⟨?_, transactCommand_err_data i (blockOf s)⟩
  rw [transactCommand_err, ← readsState_eq_true_iff, ← Option.not_isSome, isSome_blockOf]
  cases readsState i <;> cases s.seeded <;> decide

/-- Settles O25: the sequence is `transactAll` on a block that is seeded and stays so. -/
theorem seededInstanceNeverFails : Obligations.SeededInstanceNeverFails := by
  intro cs s hs
  have hb : (blockOf s).isSome = true := (isSome_blockOf s).trans hs
  obtain ⟨t, ht, hblock, hresp⟩ := exists_execAll_next cs s
  have hseeded : t.seeded = true := by rw [← isSome_blockOf, hblock, isSome_transactAll hb]
  exact ⟨t, _, ht, hseeded, hresp, length_transactAll cs _, fun _ => err_of_mem_transactAll hb⟩

/-- Settles O26: faulting commands leave the flag down (`execAll_of_unseeded`); after a command that raises
it the next is answered from a seeded block. -/
theorem unseededIsNotSticky : Obligations.UnseededIsNotSticky := by
  refine ⟨fun _ _ => execAll_of_unseeded, ?recovers⟩
  intro i j s hi _
  obtain ⟨t, ht, -, hresp⟩ := exists_execAll_next [i, j] s
  obtain ⟨v, hv⟩ := transactCommand_of_setsSeeded hi (blockOf s)
  obtain ⟨d, hd⟩ := exists_okResponse_of_isSome (b := some v) rfl j
  refine ⟨t, d, ht, ?_⟩
  rw [hresp]
  simp only [transactAll, hv, hd, okResponse]

/-- Settles O31: past the end of the list there is no action to fetch. -/
theorem exhaustedProgramIdles : Obligations.ExhaustedProgramIdles :=
  fun _ h => step_idle (List.getElem?_eq_none h)

end Sys2Proof.Proofs

/-! The step at a `Reset` and before the first one (`70_reset_and_hazards.md` rules R95, R98). -/

namespace Sys2Proof.Machine

theorem step_at_reset {s : State} (hf : fetch s = some .reset) :
    step s = .next (applyReset (advance s)) := by
  rw [step, hf]
  rfl

/-- Only a command before the first `Reset` keeps a step from answering. -/
theorem exists_step_next_at_action {s : State} {a : HostAction} (hf : fetch s = some a)
    (ha : s.resetSeen = true ∨ a = .reset) : ∃ t, step s = .next t := by
  rcases ha with hseen | rfl
  · exact exists_step_next hseen
  · exact ⟨_, step_at_reset hf⟩

/-- A command before the first `Reset` (rule R98). -/
theorem step_refused_of_not_resetSeen {s : State} {w : CmdWord} (hf : fetch s = some (.cmd w))
    (hs : s.resetSeen = false) : step s = .refused .beforeFirstReset := by
  rw [step, hf]
  exact afterFirstReset_of_not_seen hs _

/-- Nothing that the block held is left by a reset (rules R95, R96). -/
theorem applyReset_forgets_block (s : State) (x : U128) (b : Bool) :
    applyReset { s with state := x, seeded := b } = applyReset s := rfl

end Sys2Proof.Machine

/-! A run as the fold of rule R104 over the host's remaining actions (`70_reset_and_hazards.md`). -/

namespace Sys2Proof.Machine

theorem drop_index_of_fetch {s : State} {a : HostAction} (hf : fetch s = some a) :
    s.program.drop s.index = a :: s.program.drop (s.index + 1) := by
  obtain ⟨hlt, ha⟩ := List.getElem?_eq_some_iff.mp hf
  rw [List.drop_eq_getElem_cons hlt, ha]

theorem drop_index_eq_nil_iff {s : State} : s.program.drop s.index = [] ↔ fetch s = none :=
  List.drop_eq_nil_iff.trans List.getElem?_eq_none_iff.symm

/-- A run with a step for every action left ends with none left, and has folded `transact` over them. -/
theorem exists_runSteps_next {s : State} {n : Nat} (hseen : s.resetSeen = true)
    (hn : (s.program.drop s.index).length ≤ n) :
    ∃ t, runSteps n s = .next t ∧
      blockOf t = (runActions (s.program.drop s.index) (blockOf s)).1 ∧
      t.responses = s.responses ++ (runActions (s.program.drop s.index) (blockOf s)).2 ∧
      fetch t = none := by
  induction n generalizing s with
  | zero =>
    have hnil : s.program.drop s.index = [] := List.eq_nil_of_length_eq_zero (Nat.le_zero.mp hn)
    rw [hnil]
    exact ⟨s, rfl, rfl, (List.append_nil _).symm, drop_index_eq_nil_iff.mp hnil⟩
  | succ n ih =>
    cases hf : fetch s with
    | none =>
      have hlen : (s.program.drop s.index).length ≤ n := by simp [drop_index_eq_nil_iff.mpr hf]
      rw [runSteps_succ (step_idle hf)]
      exact ih hseen hlen
    | some a =>
      obtain ⟨t, ht⟩ := exists_step_next hseen
      obtain ⟨hblock, hresp, hindex, hprog, htseen⟩ := step_at_action hf ht
      have hdrop : s.program.drop s.index = a :: t.program.drop t.index := by
        rw [drop_index_of_fetch hf, hprog, hindex]
      rw [hdrop, List.length_cons] at hn
      obtain ⟨u, hu, hublock, huresp, huend⟩ := ih htseen (Nat.le_of_succ_le_succ hn)
      rw [hblock] at hublock huresp
      rw [runSteps_succ ht, hdrop]
      exact ⟨u, hu, hublock, by rw [huresp, hresp, List.append_assoc]; rfl, huend⟩

theorem hasFaulted_iff {s : State} : hasFaulted s = true ↔ ∃ r ∈ s.responses, r.err = 1 := by
  simp [hasFaulted]

theorem hasFaulted_iff_of_append {s t : State} {rs : List Response}
    (h : t.responses = s.responses ++ rs) :
    hasFaulted t = true ↔ hasFaulted s = true ∨ ∃ r ∈ rs, r.err = 1 := by
  simp only [hasFaulted_iff, h, List.mem_append, or_and_right, exists_or]

end Sys2Proof.Machine

/-! The command placed by the model's interface (log entries 3 and 7). -/

namespace Sys2Proof.Machine

theorem decodeTableWord_eq_some_iff {nbits w : Nat} {i : Instr} :
    decodeTableWord nbits w = some i ↔ ∃ cw, tableWord nbits w = some cw ∧ decode cw = i :=
  Option.map_eq_some_iff

theorem withFetchWord_of_tableWord {nbits w : Nat} {cw : CmdWord} (h : tableWord nbits w = some cw)
    (s : State) : s.withFetchWord nbits w = placeCommand cw s := by
  rw [State.withFetchWord, h]

theorem step_placeCommand (cw : CmdWord) (s : State) :
    step (placeCommand cw s) = exec (decode cw) (advance (placeCommand cw s)) :=
  step_at_command (fetch_placeCommand cw s) rfl

theorem tableWord_encodeNat {nbits : Nat} (h : 130 ≤ nbits) (i : Instr) :
    tableWord nbits (encodeNat i) = some (encode i) := by
  have hlt : encodeNat i < 2 ^ nbits :=
    (encodeNat_lt i).trans_le (Nat.pow_le_pow_right (Nat.succ_pos 1) h)
  rw [tableWord, Nat.mod_eq_of_lt hlt, if_pos (encodeNat_lt i), encode]

/-- Every command is read back from its number in a table whose words are wide enough. -/
theorem decodeTableWord_encodeNat {nbits : Nat} (h : 130 ≤ nbits) (i : Instr) :
    decodeTableWord nbits (encodeNat i) = some i :=
  decodeTableWord_eq_some_iff.mpr ⟨encode i, tableWord_encodeNat h i, decode_encode i⟩

end Sys2Proof.Machine

/-! The ports at a reset, at a broken handshake and along a command (rules R95, R96, R99, R102); two
instances of a system (rule R26). -/

namespace Sys2Proof.Machine

/-- A reset answers, with the engine at rest and no command in flight; the host's offer stays. -/
theorem portReset_cases {p q : Port} (h : portReset p = .next q) :
    q = { p with
      engine := { core := applyReset p.engine.core, out64 := 0, out128 := 0 }
      phase := .idle } :=
  (Host.Outcome.next.inj h).symm

theorem portWithdraw_of_some {p : Port} {v : CmdWord} (h : p.offer = some v) :
    portWithdraw p = .fault .handshakeViolated := by rw [portWithdraw, h]

theorem portOffer_of_some {p : Port} {v : CmdWord} (h : p.offer = some v) (w : CmdWord) :
    portOffer w p = if v = w then .next p else .fault .handshakeViolated := by rw [portOffer, h]

theorem ticksOf_seed (v : U128) (b : Bool) : ticksOf (.seed v) b = 6 := rfl

theorem ticksOf_setstate (v : U128) (b : Bool) : ticksOf (.setstate v) b = 3 := rfl

/-- `SEED` has the longest sequence of rule R50. -/
theorem ticksOf_le_six (i : Instr) (b : Bool) : ticksOf i b ≤ 6 := by
  cases i with
  | seed v => rw [ticksOf_seed]
  | setstate v => rw [ticksOf_setstate]; decide
  | next => cases b <;> decide
  | getstate => cases b <;> decide

/-- The steps of two different instances can be taken in the other order. -/
theorem systemStep_comm {sys u v : System} {j k : Nat} (hjk : j ≠ k)
    (hu : systemStep j sys = .next u) (hv : systemStep k u = .next v) :
    ∃ u', systemStep k sys = .next u' ∧ systemStep j u' = .next v := by
  obtain ⟨s, s', hj, hs, rfl⟩ := systemStep_cases hu
  obtain ⟨r, r', hk, hr, rfl⟩ := systemStep_cases hv
  rw [List.getElem?_set_ne hjk] at hk
  refine ⟨sys.set k r', systemStep_of_step hk hr, ?_⟩
  rw [List.set_comm s' r' hjk]
  exact systemStep_of_step ((List.getElem?_set_ne hjk.symm).trans hj) hs

end Sys2Proof.Machine

/-! The statements of the family `70_reset_and_hazards.md`. -/

namespace Sys2Proof.Proofs

open Sys2Proof Sys2Proof.Machine

/-- Settles O36: the step answers, and `step_at_action` says with what. -/
theorem stepRefinesTransaction : Obligations.StepRefinesTransaction := by
  intro s a hf ha
  obtain ⟨t, ht⟩ := exists_step_next_at_action hf ha
  exact ⟨t, ht, step_at_action hf ht⟩

/-- Settles O37: by induction on the steps (`exists_runSteps_next`); the record after the run is the one
before it with the run's own responses added. -/
theorem runIsFoldOfActions : Obligations.RunIsFoldOfActions := by
  intro s n hseen hn
  obtain ⟨t, ht, hblock, hresp, hend⟩ := exists_runSteps_next hseen hn
  exact ⟨t, ht, hblock, hresp, hend, hasFaulted_iff, hasFaulted_iff_of_append hresp⟩

/-- Settles O29: the step is `step_at_reset`, and at the ports `portReset_cases` gives the one next
state. -/
theorem resetAction : Obligations.ResetAction := by
  refine ⟨fun s hf => ⟨Config.resetState s.freeCount, step_at_reset hf⟩, ?atRest, fun _ => ⟨_, rfl⟩⟩
  intro p q h
  obtain rfl := portReset_cases h
  exact ⟨rfl, rfl, rfl, rfl, rfl⟩

/-- Settles O32: the word placed is the next action (`step_placeCommand`), and placing it touches the
host's side only. -/
theorem placedWordRunsNext : Obligations.PlacedWordRunsNext := by
  refine ⟨?placed, fun i => ⟨decodeTableWord_encodeNat (by decide) i,
    decodeTableWord_encodeNat (by decide) i⟩⟩
  intro s nbits w i h
  obtain ⟨cw, hcw, rfl⟩ := decodeTableWord_eq_some_iff.mp h
  rw [withFetchWord_of_tableWord hcw]
  exact ⟨_, step_placeCommand cw s, rfl, rfl, rfl, rfl, congrArg Nat.succ List.length_take⟩

/-- Settles O49: a reset overwrites all that a command in flight can have changed
(`applyReset_forgets_block`). -/
theorem resetDiscardsCommandInFlight : Obligations.ResetDiscardsCommandInFlight := by
  refine ⟨?unanswered, ?noTrace⟩
  case unanswered =>
    intro p q h
    obtain rfl := portReset_cases h
    exact ⟨rfl, rfl, rfl⟩
  case noTrace =>
    intro p x b o o' ph
    simp only [portEvent, portReset, applyReset_forgets_block]

/-- Settles O51: the ticks run the micro-operations left and offer the response (`portRun_ticks`); the
longest sequence is that of `SEED`. -/
theorem everyCommandIsAnswered : Obligations.EveryCommandIsAnswered :=
  ⟨fun _ _ _ h => ⟨_, _, portRun_ticks h, rfl⟩,
    fun i b => ⟨Nat.succ_pos _, ticksOf_le_six i b⟩, fun _ _ _ _ => ⟨rfl, rfl⟩⟩

/-- Settles O53: each step replaces its own instance in the list. -/
theorem instancesCommute : Obligations.InstancesCommute :=
  fun _ _ _ _ _ => systemStep_comm

/-- Settles O30: a `Reset` overwrites the two values that power-up leaves open. -/
theorem nothingBeforeFirstReset : Obligations.NothingBeforeFirstReset := by
  refine ⟨fun v b w as => step_refused_of_not_resetSeen rfl rfl, fun as => ?firstReset⟩
  refine ⟨applyReset (advance (powerUp 0 false (.reset :: as))), rfl, rfl, rfl, fun v b => ?_⟩
  rw [step_at_reset rfl]
  exact congrArg _ (applyReset_forgets_block (advance (powerUp 0 false (.reset :: as))) v b)

/-- Settles O52: with a word offered, only the same word is no change. -/
theorem brokenHandshakeFaults : Obligations.BrokenHandshakeFaults :=
  fun _ _ h => ⟨portWithdraw_of_some h, (portOffer_of_some h _).trans (if_pos rfl),
    fun w hw => (portOffer_of_some h w).trans (if_neg hw.symm)⟩

end Sys2Proof.Proofs
